-- ==== Sys2Proof/Word.lean ====
section
/-! DEFINITION. The words the block works on: 64-bit register and memory words, bytes, 16-bit group patterns. -/

namespace Sys2Proof

/-- A 64-bit register or memory word; bit 0 is the least significant bit (R10). -/
abbrev Word := BitVec 64

/-- One 8-bit byte of the backing store (R50). -/
abbrev Byte := BitVec 8

/-- The 16-bit pattern of one codeword group; group bit `j` is bit `15 - j` (R11). -/
abbrev Pattern := BitVec 16

end Sys2Proof
end

