-- ==== Sys2Proof/Config.lean ====
section
/-! DEFINITION. What an implementation fixes: the shapes of the parameters ROM and PACK (R8), and the free values
the spec leaves open, each an opaque constant of which nothing can be proved. -/

namespace Sys2Proof.Machine

/-- A field `w[hi:lo]` of a 64-bit word (R10). -/
structure BitRange where
  hi : Nat
  lo : Nat
  deriving DecidableEq, Repr

/-- The parameter PACK (R8, R60): the four rank fields of a `rankL12` word and the four position fields of a
`posL12` word, each the base and the deltas of quarters 1, 2, 3. -/
structure Pack where
  rankBase : BitRange
  rankDelta1 : BitRange
  rankDelta2 : BitRange
  rankDelta3 : BitRange
  posBase : BitRange
  posDelta1 : BitRange
  posDelta2 : BitRange
  posDelta3 : BitRange
  deriving DecidableEq, Repr

/-- The decode table of one class as plain data (R8, R102): `ascending` stands for all 16-bit patterns whose
popcount is the class, in ascending order (the default of R102, computed and not stored); `listed` is any other
table, written out. -/
inductive RomTable where
  | ascending
  | listed (patterns : List Pattern)
  deriving DecidableEq, Repr

/-- What the ROM holds for one class: the offset width and the decode table, whose length is `entries` (R101, R102). -/
structure RomClass where
  offsetBits : Nat
  table : RomTable
  deriving DecidableEq, Repr

/-- The parameter ROM (R8): the entries of classes 1 to 16, in this order. Class 0 is fixed by R100 and is no
part of the parameter; `smallRank` is computed (R103). -/
structure Rom where
  classes : List RomClass
  deriving DecidableEq, Repr

end Sys2Proof.Machine

namespace Sys2Proof.Config

/-- FREE VALUE (log entry 1): how many steps pass between the issue of a command and the step that completes it
(R262: "a finite, unspecified number of steps"). The argument is the draw counter. -/
opaque latency : Nat → Nat

/-- FREE VALUE (log entry 5): what a `MemRead` answers for a byte that changed while the command was in flight, or
whose location is not idempotent (R51: "an arbitrary value (a draw)"). Arguments: the number of the read, the byte
of the eight. -/
opaque arbitraryByte : Nat → Nat → Byte

/-- FREE VALUE (log entry 3): the byte at a backing-store address before the model has seen a store to it
(R252: the contents "are not the block's state, and reset says nothing about them"). The argument is the address. -/
opaque initialByte : Nat → Byte

/-- FREE VALUE (log entry 2): a register of the snapshot after `rst` (R250: "`snap` is unspecified"). Arguments: the
draw counter, the register of the eight. -/
opaque resetSnapWord : Nat → Nat → Word

end Sys2Proof.Config
end

