-- ==== Sys2Proof/Machine/Params.lean ====
section
/-! DEFINITION. The fixed constants of R7 and R27, and the default values of the parameters ROM (R101, R102),
PACK (R60) and ADDR_BITS (R8). -/

namespace Sys2Proof.Machine

/-- The ID register's constant, the ASCII bytes "SUCCINCT" (R27). -/
def idValue : Word := 0x53554343494E4354

/-- Bits covered by one L3 block (R7). -/
def l3Span : Nat := 2 ^ 32

/-- Bits covered by one L12 block (R7). -/
def l12Span : Nat := 2048

/-- Bits covered by one quarter (R7). -/
def qSpan : Nat := 512

/-- Bits of one codeword group (R7). -/
def groupBits : Nat := 16

/-- Width of the class field of a codeword (R7). -/
def classBits : Nat := 4

/-- L12 blocks in an L3 block (R7). -/
def l12PerL3 : Nat := 2 ^ 21

/-- Codeword groups in a quarter (R7). -/
def groupsPerQ : Nat := 32

/-- The default ADDR_BITS (R8, R50). -/
def defaultAddrBits : Nat := 64

/-- The number of byte addresses of a backing store whose addresses are `addrBits` wide (R50). A request carries a
64-bit address (R52), so a width above 64 adds none (DEDUCED, log entry 12). -/
def addrSpace (addrBits : Nat) : Nat := 2 ^ min addrBits 64

/-- The default PACK: the field table of R60. -/
def defaultPack : Pack where
  rankBase := ⟨63, 32⟩
  rankDelta1 := ⟨31, 22⟩
  rankDelta2 := ⟨21, 12⟩
  rankDelta3 := ⟨11, 2⟩
  posBase := ⟨63, 31⟩
  posDelta1 := ⟨30, 21⟩
  posDelta2 := ⟨20, 11⟩
  posDelta3 := ⟨10, 1⟩

/-- The default offset widths of classes 1 to 16: the table of R101. -/
def defaultOffsetBits : List Nat := [4, 7, 10, 11, 13, 13, 14, 14, 14, 13, 13, 11, 10, 7, 4, 0]

/-- The default ROM: the widths of R101, every table in ascending order (R102; class 16 is then `[0xFFFF]`). -/
def defaultRom : Rom := ⟨defaultOffsetBits.map fun w => ⟨w, .ascending⟩⟩

end Sys2Proof.Machine
end

