-- ==== Sys2Proof/Machine/State.lean ====
section
/-! DEFINITION. The state of the block, of the backing store it reads and of the inputs pending on its ports; the
reasons a step can stop; the state after reset. -/

namespace Sys2Proof.Machine

/-- The error kinds of R220 that a command can end with. -/
inductive ErrorKind where
  /-- Code 1 (R221). -/
  | outOfRange
  /-- Code 2 (R222). -/
  | corruptDictionary
  /-- Code 3 (R223). -/
  | storageIO
  /-- Code 4 (R225). -/
  | illegalCommand
  deriving DecidableEq, Repr

/-- The engine state (R38). -/
inductive Eng where
  | idle
  | busy
  deriving DecidableEq, Repr

/-- The snapshot of the command word, the operands and the configuration taken at issue (R39). -/
structure Snapshot where
  cmd : Word
  arg0 : Word
  arg1 : Word
  arg2 : Word
  winStart : Word
  winLen : Word
  streamPos : Word
  dictBase : Word
  deriving DecidableEq, Repr

/-- The backing store's listed bytes, at strictly rising addresses. An unlisted address has no byte in the list:
it reads as the free value `Config.initialByte` of its address (log entry 3). -/
abbrev Memory := List Host.Cell

/-- An entry of READ_FAIL (R223, D33): reads at `addr` answer with the error indication, all of them (`none`) or
the one that is the engine's read number `nth`. -/
structure ReadFail where
  addr : Nat
  nth : Option Nat
  deriving DecidableEq, Repr

/-- The backing store as the block sees it (R50 to R52). -/
structure Store where
  /-- The bytes (R50). -/
  mem : Memory
  /-- Addresses stored to since the issue of the command in flight (R51). -/
  changed : List Nat
  /-- Addresses whose reads have side effects or are not idempotent (R64, R257 (c)). -/
  volatile : List Nat
  /-- The reads that fail (R223). -/
  failing : List ReadFail
  deriving DecidableEq, Repr

/-- What happens on the block's ports in one step, besides the engine's own work: one act of the host or of the
platform (R20, R21). -/
inductive Input where
  /-- Nothing. -/
  | idle
  /-- A host write of `bytes` bytes at a byte offset of the register port. -/
  | write (off : BitVec 8) (bytes : Nat) (data : Word)
  /-- A host read of `bytes` bytes at a byte offset of the register port. -/
  | read (off : BitVec 8) (bytes : Nat)
  /-- `rst` is asserted (R250). -/
  | reset
  /-- A host store to the backing store becomes visible to the store's readers (R51, R257). -/
  | store (addr : Word) (data : Byte)
  /-- From here on these reads fail (R223). -/
  | readFail (reads : List ReadFail)
  /-- From here on these locations are not idempotent (R257 (c)). -/
  | volatile (addrs : List Nat)
  deriving DecidableEq, Repr

/-- The state: the host registers (R22), the engine (R38, R39), the parameters ROM, PACK and ADDR_BITS (R8, R40,
R60), the backing store (R50), the pending inputs, and the model's own counters. -/
structure State where
  /-- Engine state; STATUS.BUSY (R29, R38). -/
  eng : Eng
  /-- The snapshot of the command in flight (R39). -/
  snap : Snapshot
  /-- Steps the command in flight still takes before the one that completes it (R262; model's own). -/
  wait : Nat
  /-- STATUS.DONE (R29). -/
  done : Bool
  /-- STATUS.OVR (R29). -/
  ovr : Bool
  /-- STATUS.ERRCODE; `none` is code 0 (R29, R220). -/
  errcode : Option ErrorKind
  /-- CTRL.IE (R30). -/
  ie : Bool
  /-- ARG0 (R31). -/
  arg0 : Word
  /-- ARG1 (R31). -/
  arg1 : Word
  /-- ARG2 (R31). -/
  arg2 : Word
  /-- RESULT (R32). -/
  result : Word
  /-- ERRINFO (R33). -/
  errinfo : Word
  /-- WIN_START (R34). -/
  winStart : Word
  /-- WIN_LEN (R35). -/
  winLen : Word
  /-- STREAM_POS (R36). -/
  streamPos : Word
  /-- DICT_BASE (R37). -/
  dictBase : Word
  /-- The rank-table ROM (R40). -/
  rom : Rom
  /-- The L12 packing (R60). -/
  pack : Pack
  /-- ADDR_BITS, the width of a backing-store address (R8, R50). -/
  addrBits : Nat
  /-- The backing store (R50). -/
  store : Store
  /-- The pending inputs, oldest first. -/
  inputs : List Input
  /-- The host register port's data lines: the answer to the read of the last step, if it was one (R21). -/
  readData : Option Word
  /-- How many `MemRead` requests the engine has made (R43 (b); model's own). -/
  reads : Nat
  /-- Draw counter of the free values taken at issue and at `rst` (model's own). -/
  draws : Nat
  deriving DecidableEq, Repr

/-- Reasons a step stops with a fault: there are none. An error ends a command and is reported in STATUS, the block
goes on (R224, R226: no undefined behaviour is left). -/
inductive Fault where
  deriving DecidableEq, Repr

/-- Reasons a step has no meaning. -/
inductive Refusal where
  /-- Raised by `exec` alone, for a command that has no meaning yet; no arm raises it. Safe: the model stops. -/
  | notModelled (mnemonic : String)
  /-- Raised by a host access that is not an aligned 64-bit access: "A model refuses such an access" (R23). Safe:
  the spec gives it no effect. -/
  | undefinedHostAccess (off : BitVec 8) (bytes : Nat)
  /-- Raised by a host store to an address beyond the `2^ADDR_BITS` the backing store has (R50; log entry 12): there is
  no such byte. Never raised with the default ADDR_BITS. Safe: the model stops. -/
  | noSuchAddress (addr : Word)
  deriving DecidableEq, Repr

/-- A snapshot of zeros: what `State.reset` holds in `snap`, which the spec leaves unspecified
(DESIGN CHOICE, log entry 2; R44). -/
def Snapshot.zero : Snapshot := ⟨0, 0, 0, 0, 0, 0, 0, 0⟩

/-- The backing store of `State.reset`: no byte listed, no read failing (log entries 3, 4, 5). -/
def Store.empty : Store := ⟨[], [], [], []⟩

/-- The state after reset (R44), with the default parameters (R8). -/
def State.reset : State where
  eng := .idle
  snap := Snapshot.zero
  wait := 0
  done := false
  ovr := false
  errcode := none
  ie := false
  arg0 := 0
  arg1 := 0
  arg2 := 0
  result := 0
  errinfo := 0
  winStart := 0
  winLen := 0
  streamPos := 0
  dictBase := 0
  rom := defaultRom
  pack := defaultPack
  addrBits := defaultAddrBits
  store := Store.empty
  inputs := []
  readData := none
  reads := 0
  draws := 0

end Sys2Proof.Machine
end

