-- ==== Sys2Proof/Machine/Ops.lean ====
section
/-! DEFINITION. The shared operations: the backing store and its read port (R50 to R53), the engine's sequencing
(R12, R227), issue (R38), completion (R224) and its acknowledgement (R229), and reset (R250). -/

namespace Sys2Proof.Machine

/-! ### The backing store -/

/-- The byte listed at an address, if one is. -/
def Memory.get? : Memory → Nat → Option Byte
  | [], _ => none
  | (x, b) :: m, a => if a = x then some b else Memory.get? m a

/-- Store a byte, keeping the addresses strictly rising. -/
def Memory.set : Memory → Nat → Byte → Memory
  | [], a, b => [(a, b)]
  | (x, c) :: m, a, b =>
    if a < x then (a, b) :: (x, c) :: m
    else if a = x then (a, b) :: m
    else (x, c) :: Memory.set m a b

/-- The canonical form: addresses strictly rising, all of them 64-bit addresses (R52). An unlisted address
reads as no listed byte, so no entry can equal what it reads as. -/
abbrev Memory.wf (m : Memory) : Prop :=
  m.Pairwise (fun x y => x.1 < y.1) ∧ ∀ x ∈ m, x.1 < 2 ^ 64

/-- Does read number `k`, at address `a`, fail (READ_FAIL, R223)? -/
def Store.fails (st : Store) (a k : Nat) : Bool :=
  st.failing.any fun f => f.addr == a && (f.nth == none || f.nth == some k)

/-- Is a byte's value arbitrary at every read, because it changed since issue (R51) or its location is not
idempotent (R64)? -/
def Store.arbitrary (st : Store) (a : Nat) : Bool :=
  st.changed.contains a || st.volatile.contains a

/-- The byte of an address that is neither changed nor volatile. -/
def Store.stableByte (st : Store) (a : Nat) : Byte :=
  match st.mem.get? a with
  | some b => b
  | none => Config.initialByte a

/-- Byte `t` of what read number `k` delivers, the byte being at address `a`. Only the changed or volatile bytes of a
read are arbitrary, the others of the eight stay as they are (DESIGN CHOICE, log entry 5: R51, R64 and R257 do not say
whether the whole value is arbitrary). -/
def Store.byteAt (st : Store) (a k t : Nat) : Byte :=
  if st.arbitrary a then Config.arbitraryByte k t else st.stableByte a

/-- Big-endian assembly of eight bytes: the first is `[63:56]` (R53). -/
def beWord (b : Nat → Byte) : Word :=
  b 0 ++ b 1 ++ b 2 ++ b 3 ++ b 4 ++ b 5 ++ b 6 ++ b 7

/-- The word read number `k` delivers for address `a` (R53). -/
def Store.word (st : Store) (a k : Nat) : Word := beWord fun t => st.byteAt (a + t) k t

/-- The response of the memory read port to one request (R52). -/
inductive Response where
  | data (w : Word)
  | error
  deriving DecidableEq, Repr

/-- The read port (R52): the response to read number `k`, at byte address `a`. -/
def Store.respond (st : Store) (a k : Nat) : Response :=
  if st.fails a k then .error else .data (st.word a k)

/-- A host store to the backing store becomes visible; while a command is in flight the byte counts as changed from
here on (R51), even where the value stored is the one it held (DESIGN CHOICE, log entry 5: R51 says only "change"). -/
def Store.write (st : Store) (inFlight : Bool) (a : Word) (b : Byte) : Store :=
  { st with
    mem := st.mem.set a.toNat b
    changed := if inFlight && !st.changed.contains a.toNat then a.toNat :: st.changed else st.changed }

/-! ### Sequencing -/

/-- How a computation of the engine ends (R12): with a value (`return`, or going on), or by `raise`; with the
number of reads made so far. -/
inductive Run (α : Type) where
  | ret (v : α) (reads : Nat)
  | err (e : ErrorKind) (info : Word) (reads : Nat)
  deriving DecidableEq, Repr

/-- A computation of the engine: it reads the backing store and counts its reads. -/
abbrev Engine (α : Type) := Store → Nat → Run α

/-- A computation that makes no read and gives `v`. -/
def Engine.pure {α : Type} (v : α) : Engine α := fun _ k => .ret v k

/-- Pseudocode runs in the order written: no statement after a `raise` runs (R12, R227). -/
def Engine.bind {α β : Type} (m : Engine α) (f : α → Engine β) : Engine β := fun st k =>
  match m st k with
  | .ret v k' => f v st k'
  | .err e i k' => .err e i k'

/-- `raise E(0)` (R12): every error but StorageIO records 0 (R221, R222, R225). -/
def Engine.raise {α : Type} (e : ErrorKind) : Engine α := fun _ k => .err e 0 k

/-- `MemRead(addr, 8)` (R53): one request on the read port; an error response raises StorageIO with the address
(R223). -/
def memRead (a : Nat) : Engine Word := fun st k =>
  match st.respond a k with
  | .data w => .ret w (k + 1)
  | .error => .err .storageIO (BitVec.ofNat 64 a) (k + 1)

/-- What a command's computation is given: the snapshot (R39), the parameters ROM, PACK and ADDR_BITS (R8). -/
structure Ctx where
  snap : Snapshot
  rom : Rom
  pack : Pack
  addrBits : Nat
  deriving DecidableEq, Repr

/-- The context of the command in flight. -/
def State.ctx (s : State) : Ctx := ⟨s.snap, s.rom, s.pack, s.addrBits⟩

/-! ### Issue, completion, acknowledgement, reset -/

/-- A snapshot of the operand and configuration registers with command word `w` (R38 step 1, R39). -/
def State.snapshot (s : State) (w : Word) : Snapshot :=
  ⟨w, s.arg0, s.arg1, s.arg2, s.winStart, s.winLen, s.streamPos, s.dictBase⟩

/-- Issue of a command word, whose completion is `latency` steps and one more away: the five effects of R38 in one
step. The changed bytes of R51 are counted from here. -/
def State.issue (s : State) (w : Word) (latency : Nat) : State :=
  { s with
    snap := s.snapshot w
    eng := .busy
    done := false
    errcode := none
    errinfo := 0
    wait := latency
    store := { s.store with changed := [] } }

/-- Completion on `return v` (R224). -/
def State.completeOk (s : State) (v : Word) : State :=
  { s with result := v, errcode := none, errinfo := 0, done := true, eng := .idle }

/-- Completion on `raise E(info)` (R224): the block's exception entry. RESULT is 0 and means nothing (R32). -/
def State.completeError (s : State) (e : ErrorKind) (info : Word) : State :=
  { s with result := 0, errcode := some e, errinfo := info, done := true, eng := .idle }

/-- Completion as the command's computation ended, its reads counted. -/
def State.complete (s : State) : Run Word → State
  | .ret v k => { s.completeOk v with reads := k }
  | .err e info k => { s.completeError e info with reads := k }

/-- A command runs to its completion, on its issue-time snapshot (R26, R39). -/
def State.runCommand (s : State) (command : Ctx → Engine Word) : State :=
  s.complete (command s.ctx s.store s.reads)

/-- The host's return from a completion (R229): a write of STATUS clears DONE where bit 1 is set and OVR where bit 3
is set, and nothing else (R29). -/
def State.ackStatus (s : State) (v : Word) : State :=
  { s with done := s.done && !v.getLsbD 1, ovr := s.ovr && !v.getLsbD 3 }

/-- The snapshot after `rst`: unspecified, a free value (R250, R252). -/
def resetSnap (draw : Nat) : Snapshot where
  cmd := Config.resetSnapWord draw 0
  arg0 := Config.resetSnapWord draw 1
  arg1 := Config.resetSnapWord draw 2
  arg2 := Config.resetSnapWord draw 3
  winStart := Config.resetSnapWord draw 4
  winLen := Config.resetSnapWord draw 5
  streamPos := Config.resetSnapWord draw 6
  dictBase := Config.resetSnapWord draw 7

/-- `rst` (R250, R251): every register takes its value of R44, a command in flight is abandoned. The parameters and
the backing store are not touched, nor are the inputs still to come. -/
def State.resetBlock (s : State) : State :=
  { State.reset with
    snap := resetSnap s.draws
    draws := s.draws + 1
    rom := s.rom
    pack := s.pack
    addrBits := s.addrBits
    store := s.store
    inputs := s.inputs
    reads := s.reads }

end Sys2Proof.Machine
end

