-- ==== Sys2Proof/Machine/Operands.lean ====
section
/-! DEFINITION. Operand assembly (R81): every operand is a whole snapshot register, read as `u64` or `s64` (R10, R13). -/

namespace Sys2Proof.Machine

/-- `u64(w)` (R10). -/
def u64 (w : Word) : Nat := w.toNat

/-- `s64(w)` (R10): two's complement. -/
def s64 (w : Word) : Int := w.toInt

/-- `zext_64(v)` (R10) of an unsigned value below 2^64. -/
def zext64 (v : Nat) : Word := BitVec.ofNat 64 v

/-- ARG0 as `u64`: GETBIT i, GETFIELD startBit, GETFIELDX index, ARRAYRANK start, ROM class or pattern (R81). -/
def Ctx.arg0U (c : Ctx) : Nat := u64 c.snap.arg0

/-- ARG0 as `s64`: RANK i, SELECT k (R81). -/
def Ctx.arg0S (c : Ctx) : Int := s64 c.snap.arg0

/-- ARG1 as `u64`: widthBits, size, offset, prefixLen (R81). -/
def Ctx.arg1U (c : Ctx) : Nat := u64 c.snap.arg1

/-- ARG2 as `s64`: ARRAYRANK key (R81). -/
def Ctx.arg2S (c : Ctx) : Int := s64 c.snap.arg2

/-- WIN_START as `u64` (R81). -/
def Ctx.winStart (c : Ctx) : Nat := u64 c.snap.winStart

/-- WIN_LEN as `u64` (R81). -/
def Ctx.winLen (c : Ctx) : Nat := u64 c.snap.winLen

/-- STREAM_POS as `u64` (R81). -/
def Ctx.streamPos (c : Ctx) : Nat := u64 c.snap.streamPos

/-- DICT_BASE as `u64` (R81). -/
def Ctx.dictBase (c : Ctx) : Nat := u64 c.snap.dictBase

/-- The field `w[hi:lo]` of a word, as a number (R10). -/
def BitRange.get (r : BitRange) (w : Word) : Nat := (w >>> r.lo).toNat % 2 ^ (r.hi + 1 - r.lo)

end Sys2Proof.Machine
end

