-- ==== Sys2Proof/Machine/Views.lean ====
section
/-! DEFINITION. The two views of the window (R54 to R57) and the dictionary's header and layout (R59, R60, R74). -/

namespace Sys2Proof.Machine

/-- The window is well-formed when it ends at or below the end of the address space, computed exactly: 2^64 in R54,
whose ADDR_BITS is 64 (R50; log entry 12). -/
def Ctx.windowFits (c : Ctx) : Bool := decide (c.winStart + c.winLen ≤ addrSpace c.addrBits)

/-- The condition of `LongViewCheck` (R55). -/
def Ctx.longViewOk (c : Ctx) : Bool :=
  c.windowFits && decide (c.winLen % 8 = 0) && decide (8 ≤ c.winLen)

/-- `W`, the words of the long view (R55). -/
def Ctx.longWords (c : Ctx) : Nat := c.winLen / 8

/-- `LongViewCheck()` (R55): gives `W`. -/
def longViewCheck (c : Ctx) : Engine Nat :=
  if c.longViewOk then .pure c.longWords else .raise .outOfRange

/-- The byte address of long-view word `j` (R55). -/
def Ctx.longAddr (c : Ctx) (j : Nat) : Nat := c.winStart + 8 * j

/-- `LV(j)` (R55): every caller has checked `j < W`. -/
def longWord (c : Ctx) (j : Nat) : Engine Word := memRead (c.longAddr j)

/-- The condition of `DictViewCheck` (R56). -/
def Ctx.dictViewOk (c : Ctx) : Bool :=
  c.windowFits && decide (c.dictBase ≤ c.winLen) && decide ((c.winLen - c.dictBase) % 8 = 0)
    && decide (8 ≤ c.winLen - c.dictBase)

/-- `DW`, the words of the dictionary view (R56). -/
def Ctx.dictWords (c : Ctx) : Nat := (c.winLen - c.dictBase) / 8

/-- `DictViewCheck()` (R56). -/
def dictViewCheck (c : Ctx) : Engine Unit :=
  if c.dictViewOk then .pure () else .raise .outOfRange

/-- The byte address of dictionary word `j` (R57). -/
def Ctx.dictAddr (c : Ctx) (j : Nat) : Nat := c.winStart + c.dictBase + 8 * j

/-- `DV(j)` (R57): a read past the view raises CorruptDictionary. -/
def dictWord (c : Ctx) (j : Nat) : Engine Word :=
  if c.dictWords ≤ j then .raise .corruptDictionary else memRead (c.dictAddr j)

/-- What the header fixes (R59, R74): the bit-vector's length, the index-array lengths and the first body word. -/
structure Header where
  n : Nat
  l3N : Nat
  l12N : Nat
  body : Nat
  deriving DecidableEq, Repr

/-- The layout derived from the header word (R59). -/
def headerOf (n : Nat) : Header where
  n := n
  l3N := n / l3Span + 1
  l12N := n / l12Span + 1
  body := 1 + 2 * (n / l3Span + 1) + 2 * (n / l12Span + 1)

/-- Word index of `rankL3[m]` (R59). -/
def Header.rankL3At (_ : Header) (m : Nat) : Nat := 1 + m

/-- Word index of `posL3[m]` (R59). -/
def Header.posL3At (h : Header) (m : Nat) : Nat := 1 + h.l3N + m

/-- Word index of `rankL12[m]` (R59). -/
def Header.rankL12At (h : Header) (m : Nat) : Nat := 1 + 2 * h.l3N + m

/-- Word index of `posL12[m]` (R59). -/
def Header.posL12At (h : Header) (m : Nat) : Nat := 1 + 2 * h.l3N + h.l12N + m

/-- `DictHeader()` (R74): the view check, the read of `n`, and the two header checks. -/
def dictHeader (c : Ctx) : Engine Header :=
  (dictViewCheck c).bind fun _ =>
  (dictWord c 0).bind fun w =>
  if s64 w < 0 then .raise .corruptDictionary
  else if c.dictWords < (headerOf (u64 w)).body then .raise .corruptDictionary
  else .pure (headerOf (u64 w))

/-- `RB(w)` (R60): base rank. -/
def Pack.rb (p : Pack) (w : Word) : Nat := p.rankBase.get w

/-- `RD(w, t)` (R60): rank delta of quarter `t`. -/
def Pack.rd (p : Pack) (w : Word) (t : Nat) : Nat :=
  match t with
  | 1 => p.rankDelta1.get w
  | 2 => p.rankDelta2.get w
  | 3 => p.rankDelta3.get w
  | _ => 0

/-- `PB(w)` (R60): base body offset. -/
def Pack.pb (p : Pack) (w : Word) : Nat := p.posBase.get w

/-- `PD(w, t)` (R60): position delta of quarter `t`. -/
def Pack.pd (p : Pack) (w : Word) (t : Nat) : Nat :=
  match t with
  | 1 => p.posDelta1.get w
  | 2 => p.posDelta2.get w
  | 3 => p.posDelta3.get w
  | _ => 0

end Sys2Proof.Machine
end

