-- ==== Sys2Proof/Machine/ArrayRank.lean ====
section
/-! DEFINITION. The binary-search comparator: ARRAYRANK (R140) and the block-index search `BSearchGT` (R141).
The spec's `ep`, which may be -1, is held as `hi = ep + 1`: `sp <= ep` is `lo < hi`, `floor((sp + ep) / 2)` is
`(lo + hi - 1) / 2`, `ep <- mid - 1` is `hi <- mid`. The first argument bounds the number of probes: every probe
shortens the range, so a bound of the range's length is never used up (DEDUCED, log entry 15). -/

namespace Sys2Proof.Machine

/-- The search loop of ARRAYRANK (R140) on the element indices `[lo, hi)`. -/
def arrayRankLoop (c : Ctx) (start : Nat) (key : Int) : (bound lo hi : Nat) → Engine Nat
  | 0, _, hi => .pure hi
  | bound + 1, lo, hi =>
    if lo < hi then
      (longWord c (start + (lo + hi - 1) / 2)).bind fun v =>
        if s64 v = key then .pure ((lo + hi - 1) / 2 + 1)
        else if s64 v < key then arrayRankLoop c start key bound ((lo + hi - 1) / 2 + 1) hi
        else arrayRankLoop c start key bound lo ((lo + hi - 1) / 2)
    else .pure hi

/-- ARRAYRANK (R140): `max(ep + 1, 0)` is `hi`. -/
def arrayrankCmd (c : Ctx) : Engine Word :=
  (longViewCheck c).bind fun words =>
  if words < c.arg0U + c.arg1U then .raise .outOfRange
  else (arrayRankLoop c c.arg0U c.arg2S c.arg1U 0 c.arg1U).bind fun r => .pure (zext64 r)

/-- The search loop of `BSearchGT` (R141) on the indices `[lo, hi)`: gives the final `hi`. -/
def bsearchLoop (f : Nat → Engine Int) (val : Int) : (bound lo hi : Nat) → Engine Nat
  | 0, _, hi => .pure hi
  | bound + 1, lo, hi =>
    if lo < hi then
      (f ((lo + hi - 1) / 2)).bind fun r =>
        if r < val then bsearchLoop f val bound ((lo + hi - 1) / 2 + 1) hi
        else bsearchLoop f val bound lo ((lo + hi - 1) / 2)
    else .pure hi

/-- `BSearchGT(cnt, f, val)` (R141): `max(ep, 0)` is `hi - 1`, cut off at 0. -/
def bsearchGT (cnt : Nat) (f : Nat → Engine Int) (val : Int) : Engine Nat :=
  (bsearchLoop f val cnt 0 cnt).bind fun hi => .pure (hi - 1)

/-- Meaning of ARRAYRANK (R140). -/
def execArrayrank (s : State) : Host.Outcome State Fault Refusal := .next (s.runCommand arrayrankCmd)

end Sys2Proof.Machine
end

