-- ==== Sys2Proof/Machine/BitField.lean ====
section
/-! DEFINITION. The bit-field extractor: its core `Field` (R120), and GETBIT, GETFIELD, GETFIELDX (R121 to R123). -/

namespace Sys2Proof.Machine

/-- `Field` inside one word (R120). -/
def fieldOne (a : Word) (s w : Nat) : Nat := ((a <<< s) >>> (64 - w)).toNat

/-- `Field` across two words (R120): the 128-bit concatenation `a : b`. -/
def fieldTwo (a b : Word) (s w : Nat) : Nat := ((a ++ b) >>> (128 - s - w)).toNat % 2 ^ w

/-- `Field(read, base, sb, w)` (R120): the second word is read only when the span crosses the boundary. -/
def field (read : Nat → Engine Word) (base sb w : Nat) : Engine Nat :=
  (read (base + sb / 64)).bind fun a =>
  if sb % 64 + w ≤ 64 then .pure (fieldOne a (sb % 64) w)
  else (read (base + sb / 64 + 1)).bind fun b => .pure (fieldTwo a b (sb % 64) w)

/-- Is a width outside 1 to 64 (R122, R123)? -/
def badWidth (w : Nat) : Bool := decide (w < 1) || decide (64 < w)

/-- GETBIT (R121). -/
def getbitCmd (c : Ctx) : Engine Word :=
  (longViewCheck c).bind fun words =>
  if words ≤ c.streamPos + c.arg0U / 64 then .raise .outOfRange
  else (longWord c (c.streamPos + c.arg0U / 64)).bind fun a =>
    .pure (zext64 (a.getLsbD (63 - c.arg0U % 64)).toNat)

/-- GETFIELD (R122): width, view, span, then the reads. -/
def getfieldCmd (c : Ctx) : Engine Word :=
  if badWidth c.arg1U then .raise .outOfRange
  else (longViewCheck c).bind fun words =>
    if words ≤ c.streamPos + (c.arg0U + c.arg1U - 1) / 64 then .raise .outOfRange
    else (field (longWord c) c.streamPos c.arg0U c.arg1U).bind fun v => .pure (zext64 v)

/-- GETFIELDX (R123): the exact product must fit in 64 bits; STREAM_POS is not read. -/
def getfieldxCmd (c : Ctx) : Engine Word :=
  if badWidth c.arg1U then .raise .outOfRange
  else if 2 ^ 64 ≤ c.arg0U * c.arg1U then .raise .outOfRange
  else (longViewCheck c).bind fun words =>
    if words ≤ (c.arg0U * c.arg1U + c.arg1U - 1) / 64 then .raise .outOfRange
    else (field (longWord c) 0 (c.arg0U * c.arg1U) c.arg1U).bind fun v => .pure (zext64 v)

/-- Meaning of GETBIT (R121). -/
def execGetbit (s : State) : Host.Outcome State Fault Refusal := .next (s.runCommand getbitCmd)

/-- Meaning of GETFIELD (R122). -/
def execGetfield (s : State) : Host.Outcome State Fault Refusal := .next (s.runCommand getfieldCmd)

/-- Meaning of GETFIELDX (R123). -/
def execGetfieldx (s : State) : Host.Outcome State Fault Refusal := .next (s.runCommand getfieldxCmd)

end Sys2Proof.Machine
end

