-- ==== Sys2Proof/Machine/CodeTables.lean ====
section
/-! DEFINITION. The rank-table ROM (R100 to R103) and its three lookup commands (R104 to R106). -/

namespace Sys2Proof.Machine

/-- The number of 1 bits among the low `n` bits of `v`. -/
def onesBelow (v : Nat) : Nat → Nat
  | 0 => 0
  | n + 1 => onesBelow v n + if v.testBit n then 1 else 0

/-- `popcount(v)` of a 16-bit pattern (R12). -/
def popcount (p : Pattern) : Nat := onesBelow p.toNat 16

/-- The `o`-th smallest (from 0) number below `2^bits` with `ones` 1 bits (R102): those with bit `bits - 1` clear come
first, and there are `C(bits - 1, ones)` of them. -/
def nthPattern : (bits ones o : Nat) → Nat
  | 0, _, _ => 0
  | b + 1, ones, o =>
    if o < b.choose ones then nthPattern b ones o
    else 2 ^ b + nthPattern b (ones - 1) (o - b.choose ones)

/-- The ROM's entry for a class 1 to 16, a class the parameter does not list having an empty table. -/
def Rom.classEntry (r : Rom) (c : Nat) : RomClass := r.classes.getD (c - 1) ⟨0, .listed []⟩

/-- `offsetBits[c]`: class 0 is fixed (R100, R101). -/
def Rom.offsetBits (r : Rom) (c : Nat) : Nat := if c = 0 then 1 else (r.classEntry c).offsetBits

/-- `entries[c]`: class 0 is fixed (R100, R102). -/
def Rom.entries (r : Rom) (c : Nat) : Nat :=
  if c = 0 then 2
  else match (r.classEntry c).table with
    | .ascending => Nat.choose 16 c
    | .listed ps => ps.length

/-- `decodeTable[c][o]` for `o < entries[c]`: class 0 is fixed (R100, R102). -/
def Rom.pattern (r : Rom) (c o : Nat) : Pattern :=
  if c = 0 then (if o = 0 then 0x0000 else 0xFFFF)
  else match (r.classEntry c).table with
    | .ascending => BitVec.ofNat 16 (nthPattern 16 c o)
    | .listed ps => ps.getD o 0

/-- `smallRank[p][l] = popcount(p >> (16 - l))` (R103). -/
def smallRank (p : Pattern) (l : Nat) : Nat := popcount (p >>> (16 - l))

/-- ROM_OFFSETBITS (R104). -/
def romOffsetbitsCmd (c : Ctx) : Engine Word :=
  if 16 < c.arg0U then .raise .outOfRange
  else .pure (zext64 (c.rom.offsetBits c.arg0U))

/-- ROM_DECODE (R105): the class check comes first. -/
def romDecodeCmd (c : Ctx) : Engine Word :=
  if 16 < c.arg0U then .raise .outOfRange
  else if c.rom.entries c.arg0U ≤ c.arg1U then .raise .outOfRange
  else .pure (zext64 (c.rom.pattern c.arg0U c.arg1U).toNat)

/-- ROM_SMALLRANK (R106): the pattern check comes first. -/
def romSmallrankCmd (c : Ctx) : Engine Word :=
  if 0xFFFF < c.arg0U then .raise .outOfRange
  else if 16 < c.arg1U then .raise .outOfRange
  else .pure (zext64 (smallRank (BitVec.ofNat 16 c.arg0U) c.arg1U))

/-- Meaning of ROM_OFFSETBITS (R104). -/
def execRomOffsetbits (s : State) : Host.Outcome State Fault Refusal := .next (s.runCommand romOffsetbitsCmd)

/-- Meaning of ROM_DECODE (R105). -/
def execRomDecode (s : State) : Host.Outcome State Fault Refusal := .next (s.runCommand romDecodeCmd)

/-- Meaning of ROM_SMALLRANK (R106). -/
def execRomSmallrank (s : State) : Host.Outcome State Fault Refusal := .next (s.runCommand romSmallrankCmd)

end Sys2Proof.Machine
end

