-- ==== Sys2Proof/Machine/Rank.lean ====
section
/-! DEFINITION. The codeword decoder (R62) and the rank datapath: `Rank1Core` (R161), RANK1 (R160), RANK0 (R162). -/

namespace Sys2Proof.Machine

/-- A field of the codeword body (R62). -/
def bodyField (c : Ctx) (h : Header) (pos w : Nat) : Engine Nat := field (dictWord c) h.body pos w

/-- The class field and the popcount of the group whose codeword starts at `pos` (R62, R161, R190): class 0 counts
16 times its flag. -/
def groupCount (c : Ctx) (h : Header) (pos : Nat) : Engine (Nat × Nat) :=
  (bodyField c h pos classBits).bind fun cls =>
  if cls = 0 then
    (bodyField c h (pos + classBits) (c.rom.offsetBits 0)).bind fun flag => .pure (cls, 16 * flag)
  else .pure (cls, cls)

/-- The 16-bit pattern of the group at `pos` whose class field is `cls` (R62, R161, R190): an offset at or beyond
the table bound raises CorruptDictionary. -/
def groupPattern (c : Ctx) (h : Header) (pos cls : Nat) : Engine Pattern :=
  (if c.rom.offsetBits cls = 0 then Engine.pure 0
   else bodyField c h (pos + classBits) (c.rom.offsetBits cls)).bind fun o =>
  if c.rom.entries cls ≤ o then .raise .corruptDictionary else .pure (c.rom.pattern cls o)

/-- The whole groups before the one holding bit i (R161): adds `groups` popcounts to `res`, moves `pos` past them. -/
def scanGroups (c : Ctx) (h : Header) : (groups res pos : Nat) → Engine (Nat × Nat)
  | 0, res, pos => .pure (res, pos)
  | g + 1, res, pos =>
    (groupCount c h pos).bind fun x =>
      scanGroups c h g (res + x.2) (pos + classBits + c.rom.offsetBits x.1)

/-- The sum of `d 1 .. d q` (R161): quarter 0 adds nothing. -/
def deltaSum (d : Nat → Nat) : Nat → Nat
  | 0 => 0
  | q + 1 => deltaSum d q + d (q + 1)

/-- `Rank1Core(i, n, L3N, L12N, B)` (R161), for `i < n`. -/
def rank1Core (c : Ctx) (h : Header) (i : Nat) : Engine Nat :=
  (dictWord c (h.rankL3At (i / l3Span))).bind fun r3 =>
  (dictWord c (h.posL3At (i / l3Span))).bind fun p3 =>
  (dictWord c (h.rankL12At (i / l12Span))).bind fun r12 =>
  (dictWord c (h.posL12At (i / l12Span))).bind fun p12 =>
  (scanGroups c h (i % qSpan / groupBits)
    (u64 r3 + c.pack.rb r12 + deltaSum (c.pack.rd r12) (i % l12Span / qSpan))
    (u64 p3 + c.pack.pb p12 + deltaSum (c.pack.pd p12) (i % l12Span / qSpan))).bind fun x =>
  (bodyField c h x.2 classBits).bind fun cls =>
  (groupPattern c h x.2 cls).bind fun pat =>
  if i + 1 < x.1 + smallRank pat (i % groupBits + 1) then .raise .corruptDictionary
  else .pure (x.1 + smallRank pat (i % groupBits + 1))

/-- RANK1 (R160): a negative `i` returns 0 with no check and no read. -/
def rank1Cmd (c : Ctx) : Engine Word :=
  if c.arg0S < 0 then .pure 0
  else (dictHeader c).bind fun h =>
    if h.n ≤ c.arg0S.toNat then .raise .outOfRange
    else (rank1Core c h c.arg0S.toNat).bind fun r => .pure (zext64 r)

/-- RANK0 (R162). -/
def rank0Cmd (c : Ctx) : Engine Word :=
  if c.arg0S < 0 then .pure 0
  else (dictHeader c).bind fun h =>
    if h.n ≤ c.arg0S.toNat then .raise .outOfRange
    else (rank1Core c h c.arg0S.toNat).bind fun r => .pure (zext64 (c.arg0S.toNat + 1 - r))

/-- Meaning of RANK1 (R160). -/
def execRank1 (s : State) : Host.Outcome State Fault Refusal := .next (s.runCommand rank1Cmd)

/-- Meaning of RANK0 (R162). -/
def execRank0 (s : State) : Host.Outcome State Fault Refusal := .next (s.runCommand rank0Cmd)

end Sys2Proof.Machine
end

