-- ==== Sys2Proof/Machine/Select.lean ====
section
/-! DEFINITION. The select tree decoder: `SelectCore` (R190) stage by stage, SELECT1 (R192), SELECT0 (R193).
`one` is true for SELECT1. Counts are exact integers, which may become negative. -/

namespace Sys2Proof.Machine

/-- A count of ones, or its complement over the nominal span it covers (R190, R193). -/
def countOf (one : Bool) (span ones : Nat) : Int := if one then (ones : Int) else (span : Int) - (ones : Int)

/-- The quantities carried from tier to tier (R190): the count still to find, the body offset and the bit-vector
position reached. -/
structure Cursor where
  val : Int
  pos : Nat
  sel : Nat
  deriving DecidableEq, Repr

/-- `P`, the number of set bits (R191). -/
def totalOnes (c : Ctx) (h : Header) : Engine Nat :=
  if h.n = 0 then .pure 0 else rank1Core c h (h.n - 1)

/-- `f3(m)` (R190): ones, or zeros, before L3 block `m`. -/
def l3Count (c : Ctx) (h : Header) (one : Bool) (m : Nat) : Engine Int :=
  (dictWord c (h.rankL3At m)).bind fun w => .pure (countOf one (m * l3Span) (u64 w))

/-- `f12(m)` (R190): ones, or zeros, before the `m`-th L12 block of the L3 block whose first L12 block is `lo`. -/
def l12Count (c : Ctx) (h : Header) (one : Bool) (lo m : Nat) : Engine Int :=
  (dictWord c (h.rankL12At (lo + m))).bind fun w => .pure (countOf one (m * l12Span) (c.pack.rb w))

/-- The L3 stage (R190): gives the block, and the count left with the block's base body offset. -/
def l3Stage (c : Ctx) (h : Header) (one : Bool) (val : Int) : Engine (Nat × Int × Nat) :=
  (bsearchGT h.l3N (l3Count c h one) val).bind fun l3 =>
  (l3Count c h one l3).bind fun r =>
  (dictWord c (h.posL3At l3)).bind fun p =>
  if val - r < 1 then .raise .corruptDictionary else .pure (l3, val - r, u64 p)

/-- The L12 stage (R190) inside L3 block `l3`: the cursor at the start of the chosen block, with its rank and
position words. -/
def l12Stage (c : Ctx) (h : Header) (one : Bool) (l3 : Nat) (val : Int) (pos : Nat) :
    Engine (Cursor × Word × Word) :=
  (bsearchGT (min (h.l12N - l3 * l12PerL3) l12PerL3) (l12Count c h one (l3 * l12PerL3)) val).bind fun e =>
  (l12Count c h one (l3 * l12PerL3) e).bind fun r =>
  (dictWord c (h.rankL12At (l3 * l12PerL3 + e))).bind fun rw =>
  (dictWord c (h.posL12At (l3 * l12PerL3 + e))).bind fun pw =>
  if val - r < 1 then .raise .corruptDictionary
  else .pure (⟨val - r, pos + c.pack.pb pw, (l3 * l12PerL3 + e) * l12Span⟩, rw, pw)

/-- The quarter stage (R190) over the quarters still to test, in order: it stops at the first failing test. -/
def quarterStage (p : Pack) (n : Nat) (one : Bool) (rw pw : Word) : List Nat → Cursor → Cursor
  | [], x => x
  | t :: ts, x =>
    if x.sel + qSpan < n ∧ countOf one qSpan (p.rd rw t) < x.val then
      quarterStage p n one rw pw ts
        ⟨x.val - countOf one qSpan (p.rd rw t), x.pos + p.pd pw t, x.sel + qSpan⟩
    else x

/-- The group stage (R190): `left` groups of the quarter are still unread; gives the class of the group found and
the cursor at its start. Past the quarter's groups it raises CorruptDictionary. -/
def groupStage (c : Ctx) (h : Header) (one : Bool) : (left : Nat) → Cursor → Engine (Nat × Cursor)
  | 0, _ => .raise .corruptDictionary
  | left + 1, x =>
    (groupCount c h x.pos).bind fun y =>
      if x.val ≤ countOf one groupBits y.2 then .pure (y.1, x)
      else groupStage c h one left
        ⟨x.val - countOf one groupBits y.2, x.pos + classBits + c.rom.offsetBits y.1, x.sel + groupBits⟩

/-- The bit stage's scan (R190), MSB-first over the group bits `j` given: the bit at which the count reaches 0. -/
def bitScan (p : Pattern) (one : Bool) : List Nat → Int → Option Nat
  | [], _ => none
  | j :: js, val =>
    if p.getLsbD (15 - j) = one then
      if val - 1 = 0 then some j else bitScan p one js (val - 1)
    else bitScan p one js val

/-- The bit stage (R190): the position found, checked against `n`. -/
def bitStage (h : Header) (one : Bool) (p : Pattern) (x : Cursor) : Engine Nat :=
  match bitScan p one (List.range groupBits) x.val with
  | some j => if h.n ≤ x.sel + j then .raise .corruptDictionary else .pure (x.sel + j)
  | none => .raise .corruptDictionary

/-- The stages of `SelectCore` after the range check (R190), for the target count `val`. -/
def selectStages (c : Ctx) (h : Header) (one : Bool) (val : Int) : Engine Nat :=
  (l3Stage c h one val).bind fun x =>
  (l12Stage c h one x.1 x.2.1 x.2.2).bind fun y =>
  (groupStage c h one groupsPerQ (quarterStage c.pack h.n one y.2.1 y.2.2 [1, 2, 3] y.1)).bind fun z =>
  (groupPattern c h z.2.pos z.1).bind fun p =>
  bitStage h one p z.2

/-- `SelectCore(one)` (R190), with the range validation of R191. -/
def selectCore (one : Bool) (c : Ctx) : Engine Word :=
  if c.arg0S < 0 then .raise .outOfRange
  else (dictHeader c).bind fun h =>
    (totalOnes c h).bind fun p =>
    if countOf one h.n p ≤ c.arg0S then .raise .outOfRange
    else (selectStages c h one (c.arg0S + 1)).bind fun r => .pure (zext64 r)

/-- SELECT1 (R192). -/
def select1Cmd (c : Ctx) : Engine Word := selectCore true c

/-- SELECT0 (R193). -/
def select0Cmd (c : Ctx) : Engine Word := selectCore false c

/-- Meaning of SELECT1 (R192). -/
def execSelect1 (s : State) : Host.Outcome State Fault Refusal := .next (s.runCommand select1Cmd)

/-- Meaning of SELECT0 (R193). -/
def execSelect0 (s : State) : Host.Outcome State Fault Refusal := .next (s.runCommand select0Cmd)

end Sys2Proof.Machine
end

