-- ==== Sys2Proof/Syntax.lean ====
section
/-! DEFINITION. The commands: one constructor per row of spec/opcode_table.json. A command has no operand fields:
its operands are the snapshot registers (R81). -/

namespace Sys2Proof

/-- The eleven commands of R82. -/
inductive Instr where
  /-- GETBIT (R121). -/
  | getbit
  /-- GETFIELD (R122). -/
  | getfield
  /-- GETFIELDX (R123). -/
  | getfieldx
  /-- ARRAYRANK (R140). -/
  | arrayrank
  /-- RANK1 (R160). -/
  | rank1
  /-- RANK0 (R162). -/
  | rank0
  /-- SELECT1 (R192). -/
  | select1
  /-- SELECT0 (R193). -/
  | select0
  /-- ROM_OFFSETBITS (R104). -/
  | romOffsetbits
  /-- ROM_DECODE (R105). -/
  | romDecode
  /-- ROM_SMALLRANK (R106). -/
  | romSmallrank
  deriving DecidableEq, Repr

end Sys2Proof
end

