-- ==== Sys2Proof/Machine/Dispatch.lean ====
section
/-! DEFINITION. One arm per command: its meaning, from issue-time snapshot to completion. -/

namespace Sys2Proof.Machine

/-- A command runs on the state that holds its snapshot and completes (R38, R224). -/
def exec (i : Instr) (s : State) : Host.Outcome State Fault Refusal :=
  match i with
  | .getbit => Sys2Proof.Machine.execGetbit s
  | .getfield => Sys2Proof.Machine.execGetfield s
  | .getfieldx => Sys2Proof.Machine.execGetfieldx s
  | .arrayrank => Sys2Proof.Machine.execArrayrank s
  | .rank1 => Sys2Proof.Machine.execRank1 s
  | .rank0 => Sys2Proof.Machine.execRank0 s
  | .select1 => Sys2Proof.Machine.execSelect1 s
  | .select0 => Sys2Proof.Machine.execSelect0 s
  | .romOffsetbits => Sys2Proof.Machine.execRomOffsetbits s
  | .romDecode => Sys2Proof.Machine.execRomDecode s
  | .romSmallrank => Sys2Proof.Machine.execRomSmallrank s

end Sys2Proof.Machine
end

