-- ==== Sys2Proof/Machine/Flags.lean ====
section
/-! DEFINITION. The flags: the bits of STATUS (R29), the error codes (R220), CTRL (R30) and the interrupt output (R230). -/

namespace Sys2Proof.Machine

/-- The code of an error kind (R220). -/
def errorNumber : ErrorKind → BitVec 4
  | .outOfRange => 1
  | .corruptDictionary => 2
  | .storageIO => 3
  | .illegalCommand => 4

/-- STATUS.ERRCODE (R220): 0 is none. -/
def State.errNumber (s : State) : BitVec 4 :=
  match s.errcode with
  | none => 0
  | some e => errorNumber e

/-- STATUS.BUSY is 1 exactly when the engine is BUSY (R38). -/
def State.busy (s : State) : Bool := s.eng == .busy

/-- STATUS.ERR is always `ERRCODE != 0` (R29). -/
def State.errFlag (s : State) : Bool := s.errNumber != 0

/-- STATUS as the host reads it (R29): reserved bits read 0. -/
def State.statusWord (s : State) : Word :=
  (0 : BitVec 52) ++ s.errNumber ++ (0 : BitVec 4) ++ BitVec.ofBool s.ovr ++ BitVec.ofBool s.errFlag
    ++ BitVec.ofBool s.done ++ BitVec.ofBool s.busy

/-- CTRL as the host reads it (R30): only bit 0 is kept. -/
def State.ctrlWord (s : State) : Word := (0 : BitVec 63) ++ BitVec.ofBool s.ie

/-- The interrupt output (R230): the level `STATUS.DONE AND CTRL.IE`. -/
def State.irq (s : State) : Bool := s.done && s.ie

end Sys2Proof.Machine
end

