-- ==== Sys2Proof/Decode.lean ====
section
/-! DEFINITION. Command words (R80 to R85, R88): the total decoder, rejecting by name, and after it the encoder. -/

namespace Sys2Proof

/-- Why a command word is illegal (R83). -/
inductive Illegal where
  /-- `CMD[63:8]` is not 0. -/
  | reservedBits
  /-- `CMD[7:0]` is no assigned OPCODE. -/
  | unassignedOpcode
  deriving DecidableEq, Repr

/-- What a command word decodes to (R84): exactly one of the eleven commands, or an illegal command. -/
inductive Decoded where
  | command (i : Instr)
  | illegal (why : Illegal)
  deriving DecidableEq, Repr

/-- A row of the opcode map (R82). -/
structure OpcodeRow where
  opcode : BitVec 8
  instr : Instr
  deriving DecidableEq, Repr

/-- The opcode map of R82. -/
def opcodeMap : List OpcodeRow :=
  [⟨0x01, .getbit⟩, ⟨0x02, .getfield⟩, ⟨0x03, .getfieldx⟩, ⟨0x08, .arrayrank⟩,
   ⟨0x10, .rank1⟩, ⟨0x11, .rank0⟩, ⟨0x12, .select1⟩, ⟨0x13, .select0⟩,
   ⟨0x20, .romOffsetbits⟩, ⟨0x21, .romDecode⟩, ⟨0x22, .romSmallrank⟩]

/-- The OPCODE field `CMD[7:0]` (R80). -/
def opcodeField (w : Word) : BitVec 8 := w.extractLsb' 0 8

/-- The RSV field `CMD[63:8]` (R80). -/
def reservedField (w : Word) : BitVec 56 := w.extractLsb' 8 56

/-- The row of an OPCODE. -/
def lookupOpcode (op : BitVec 8) : Option Instr :=
  (opcodeMap.find? fun r => r.opcode == op).map OpcodeRow.instr

/-- Decoding is total and reads `CMD[63:0]` and nothing else (R84). -/
def decode (w : Word) : Decoded :=
  if reservedField w = 0 then
    match lookupOpcode (opcodeField w) with
    | some i => .command i
    | none => .illegal .unassignedOpcode
  else .illegal .reservedBits

/-- The OPCODE of a command (R82). -/
def opcodeOf : Instr → BitVec 8
  | .getbit => 0x01
  | .getfield => 0x02
  | .getfieldx => 0x03
  | .arrayrank => 0x08
  | .rank1 => 0x10
  | .rank0 => 0x11
  | .select1 => 0x12
  | .select0 => 0x13
  | .romOffsetbits => 0x20
  | .romDecode => 0x21
  | .romSmallrank => 0x22

/-- The command word of a command: `CMD = zext_64(OPCODE)` (R88). -/
def encode (i : Instr) : Word := (opcodeOf i).zeroExtend 64

/-- The decoder on a table word of `nbits` bits, the bits above them 0. A command word is one 64-bit register
write (R85), so a word that does not fit in 64 bits is refused. -/
def decodeTableWord (nbits w : Nat) : Option Instr :=
  if w % 2 ^ nbits < 2 ^ 64 then
    match decode (BitVec.ofNat 64 (w % 2 ^ nbits)) with
    | .command i => some i
    | .illegal _ => none
  else none

end Sys2Proof
end

