-- ==== Sys2Proof/WellFormed.lean ====
section
/-! DEFINITION. What is well-formed: a command word (R80, R83), a command, a ROM (R107), a PACK (R60), a host access (R23). -/

namespace Sys2Proof

/-- A legal command word (R83): the reserved bits are 0 and the OPCODE is assigned. -/
def wordWellFormed (w : Word) : Bool :=
  decide (reservedField w = 0) && (lookupOpcode (opcodeField w)).isSome

/-- A command is well-formed when its command word is legal. Commands have no operand fields (R81), so there is
nothing else to check in one. -/
def Instr.wellFormed (i : Instr) : Bool := wordWellFormed (encode i)

end Sys2Proof

namespace Sys2Proof.Machine

/-- The constraints R107 items 2 to 4 on one class 1 to 16 (log entry 13): the width, the table bound, every entry's popcount.
A table in ascending order meets the last by its definition. -/
def RomClass.wellFormed (cls : Nat) (r : RomClass) : Bool :=
  decide (r.offsetBits ≤ 16) &&
  match r.table with
  | .ascending => decide (Nat.choose 16 cls ≤ 2 ^ r.offsetBits)
  | .listed ps =>
    decide (1 ≤ ps.length) && decide (ps.length ≤ 2 ^ r.offsetBits) &&
      ps.all fun p => popcount p == cls

/-- The constraints of R107 on a ROM parameter: the sixteen classes 1 to 16 are given, each well-formed. Item 1
(class 0) and item 5 (smallRank) hold by construction; item 6 cannot be checked. -/
def Rom.wellFormed (r : Rom) : Bool :=
  decide (r.classes.length = 16) &&
    (List.range 16).all fun k => (r.classes.getD k ⟨0, .listed []⟩).wellFormed (k + 1)

/-- A field lies inside a 64-bit word (R10). -/
def BitRange.wellFormed (r : BitRange) : Bool := decide (r.lo ≤ r.hi) && decide (r.hi < 64)

/-- All eight fields of PACK lie inside a word (R60). -/
def Pack.wellFormed (p : Pack) : Bool :=
  p.rankBase.wellFormed && p.rankDelta1.wellFormed && p.rankDelta2.wellFormed && p.rankDelta3.wellFormed &&
  p.posBase.wellFormed && p.posDelta1.wellFormed && p.posDelta2.wellFormed && p.posDelta3.wellFormed

/-- A defined host access (R23): 64 bits, at an offset that is a multiple of 8. -/
def hostAccessWellFormed (off : BitVec 8) (bytes : Nat) : Bool := decide (bytes = 8) && decide (off.toNat % 8 = 0)

end Sys2Proof.Machine
end

