-- ==== Sys2Proof/Machine/HostPort.lean ====
section
/-! DEFINITION. The host register port (R21 to R37) and the other inputs of a step. -/

namespace Sys2Proof.Machine

/-- The registers of the map (R22). -/
inductive Reg where
  | id
  | cmd
  | status
  | ctrl
  | arg0
  | arg1
  | arg2
  | result
  | errinfo
  | winStart
  | winLen
  | streamPos
  | dictBase
  deriving DecidableEq, Repr

/-- The byte offset of a register (R22). -/
def regOffset : Reg → BitVec 8
  | .id => 0x00
  | .cmd => 0x08
  | .status => 0x10
  | .ctrl => 0x18
  | .arg0 => 0x20
  | .arg1 => 0x28
  | .arg2 => 0x30
  | .result => 0x38
  | .errinfo => 0x40
  | .winStart => 0x48
  | .winLen => 0x50
  | .streamPos => 0x58
  | .dictBase => 0x60

/-- The registers in the order of the map. -/
def allRegs : List Reg :=
  [.id, .cmd, .status, .ctrl, .arg0, .arg1, .arg2, .result, .errinfo, .winStart, .winLen, .streamPos, .dictBase]

/-- The register at an offset; none at a reserved offset (R22, R24). -/
def regAt (off : BitVec 8) : Option Reg := allRegs.find? fun r => regOffset r == off

/-- What a register reads as (R22 to R37). -/
def State.readReg (s : State) : Reg → Word
  | .id => idValue
  | .cmd => 0
  | .status => s.statusWord
  | .ctrl => s.ctrlWord
  | .arg0 => s.arg0
  | .arg1 => s.arg1
  | .arg2 => s.arg2
  | .result => s.result
  | .errinfo => s.errinfo
  | .winStart => s.winStart
  | .winLen => s.winLen
  | .streamPos => s.streamPos
  | .dictBase => s.dictBase

/-- What an aligned 64-bit read of an offset answers: reserved offsets read 0 (R24). -/
def State.readOffset (s : State) (off : BitVec 8) : Word :=
  match regAt off with
  | some r => s.readReg r
  | none => 0

/-- How long a command word takes: an illegal one "completes at once" (R83), a command a finite, unspecified number
of steps (R262). -/
def issueLatency (w : Word) (draw : Nat) : Nat :=
  match decode w with
  | .command _ => Config.latency draw
  | .illegal _ => 0

/-- A host write of CMD (R28): it issues while IDLE (R38); while BUSY it is ignored and sets OVR (R261). -/
def State.writeCmd (s : State) (w : Word) : State :=
  match s.eng with
  | .busy => { s with ovr := true }
  | .idle => { s.issue w (issueLatency w s.draws) with draws := s.draws + 1 }

/-- A host write of a register (R22 to R37); writes to the read-only registers are ignored (log entry 9). Operand
and configuration registers take the value at once, BUSY or not (R26). -/
def State.writeReg (s : State) (v : Word) : Reg → State
  | .id => s
  | .cmd => s.writeCmd v
  | .status => s.ackStatus v
  | .ctrl => { s with ie := v.getLsbD 0 }
  | .arg0 => { s with arg0 := v }
  | .arg1 => { s with arg1 := v }
  | .arg2 => { s with arg2 := v }
  | .result => s
  | .errinfo => s
  | .winStart => { s with winStart := v }
  | .winLen => { s with winLen := v }
  | .streamPos => { s with streamPos := v }
  | .dictBase => { s with dictBase := v }

/-- An aligned 64-bit write of an offset: at a reserved offset it is ignored (R24). -/
def State.writeOffset (s : State) (off : BitVec 8) (v : Word) : State :=
  match regAt off with
  | some r => s.writeReg v r
  | none => s

/-- The effect of one input on the state (R23, R25, R50, R51, R250). -/
def State.applyInput (s : State) : Input → Host.Outcome State Fault Refusal
  | .idle => .next s
  | .write off bytes v =>
    if hostAccessWellFormed off bytes then .next (s.writeOffset off v)
    else .refused (.undefinedHostAccess off bytes)
  | .read off bytes =>
    if hostAccessWellFormed off bytes then .next { s with readData := some (s.readOffset off) }
    else .refused (.undefinedHostAccess off bytes)
  | .reset => .next s.resetBlock
  | .store a b =>
    if a.toNat < addrSpace s.addrBits then .next { s with store := s.store.write s.busy a b }
    else .refused (.noSuchAddress a)
  | .readFail l => .next { s with store := { s.store with failing := l } }
  | .volatile l => .next { s with store := { s.store with volatile := l } }

/-- The input a step takes: the oldest, or none when nothing is pending. -/
def State.nextInput (s : State) : Input :=
  match s.inputs with
  | [] => .idle
  | e :: _ => e

/-- The state with its oldest input taken and the data lines of the register port undriven. -/
def State.takeInput (s : State) : State := { s with inputs := s.inputs.tail, readData := none }

end Sys2Proof.Machine
end

