-- ==== Sys2Proof/Machine/Engine.lean ====
section
/-! DEFINITION. One step of the block: the host's act, then the engine's (R231; log entries 6, 8 and 14). -/

namespace Sys2Proof.Machine

/-- The command in flight completes: the decoded command runs (R84), an illegal word completes with IllegalCommand,
reading no operand and no memory (R83, R225). -/
def State.finishCommand (s : State) : Host.Outcome State Fault Refusal :=
  match decode s.snap.cmd with
  | .command i => exec i s
  | .illegal _ => .next (s.completeError .illegalCommand 0)

/-- The engine's part of a step in which a command was in flight from the start: it completes when its time has come,
else one more step has passed (R262). -/
def State.advance (s : State) : Host.Outcome State Fault Refusal :=
  match s.wait with
  | 0 => s.finishCommand
  | w + 1 => .next { s with wait := w }

/-- One step. The step's input comes first, seeing the engine as it was: so a CMD write in the step of a completion is
dropped and sets OVR, and a write of STATUS in that step does not clear the DONE the completion sets (R231). A
command issued in this step starts with the next; `rst` abandons the command in flight (R251). -/
def State.cycle (s : State) : Host.Outcome State Fault Refusal :=
  match s.takeInput.applyInput s.nextInput with
  | .next t => if s.busy ∧ s.nextInput ≠ .reset then t.advance else .next t
  | .fault f => .fault f
  | .refused r => .refused r

/-- The state in which the next step runs exactly command word `w`: the word is issued (R38), its completion is due,
and no input comes in between (log entry 11). -/
def State.loadCommand (s : State) (w : Word) : State :=
  { s.issue w 0 with inputs := .idle :: s.inputs }

end Sys2Proof.Machine
end

