-- ==== Sys2Proof/Machine/Step.lean ====
section
/-! DEFINITION. The step of the machine, and where it fetches its next instruction. -/

namespace Sys2Proof.Machine

/-- One step of the block (Machine/Engine.lean). -/
def step : State → Host.Outcome State Fault Refusal := fun s => s.cycle

/-- The block fetches nothing (R41): its next instruction is the command word in the snapshot. `s` with command word
`w` (its bits above `nbits` 0) issued and due in the next step. -/
def State.withFetchWord (s : State) (nbits w : Nat) : State := s.loadCommand (BitVec.ofNat 64 (w % 2 ^ nbits))

end Sys2Proof.Machine
end

