-- ==== Sys2Proof/Machine/HostProgram.lean ====
section
/-! DEFINITION. Host programs (R86) and their pseudo-instructions (R87), run against the block. The host's program,
position and temporaries are the host's state, not the block's (R86), so they stand beside `State` and not in it. -/

namespace Sys2Proof.Machine

/-- A host temporary, by number. -/
abbrev Temp := Nat

/-- The temporary `s` of R87, which holds the STATUS value read last. -/
def tempS : Temp := 0

/-- The temporary `r` of R87, which holds RESULT. -/
def tempR : Temp := 1

/-- A label: one of the program's own, or the `W` of the pseudo-instruction on a line (R87). -/
inductive Label where
  | named (l : Nat)
  | poll (line : Nat)
  deriving DecidableEq, Repr

/-- A value `v`: an immediate or a temporary (R86). -/
inductive HostValue where
  | imm (w : Word)
  | temp (t : Temp)
  deriving DecidableEq, Repr

/-- The host operations of R86. -/
inductive HostOp where
  /-- `wr REG, v`. -/
  | wr (r : Reg) (v : HostValue)
  /-- `rd t, REG`. -/
  | rd (t : Temp) (r : Reg)
  /-- `li t, v`. -/
  | li (t : Temp) (v : HostValue)
  /-- `add t, v`. -/
  | add (t : Temp) (v : HostValue)
  /-- `L:`. -/
  | label (l : Label)
  /-- `bit1 t, b, L`. -/
  | bit1 (t : Temp) (b : Nat) (l : Label)
  /-- `bne t, v, L`. -/
  | bne (t : Temp) (v : HostValue) (l : Label)
  /-- `halt`. -/
  | halt
  deriving DecidableEq, Repr

/-- A line of a host program: an operation, or a pseudo-instruction of R87. -/
inductive HostLine where
  | op (o : HostOp)
  /-- `mnemonic op0[, op1[, op2]]`. -/
  | command (i : Instr) (operands : List HostValue)
  /-- `window a, len`. -/
  | window (a len : HostValue)
  /-- `dict off`. -/
  | dict (off : HostValue)
  /-- `seek p`. -/
  | seek (p : HostValue)
  /-- `rewind`. -/
  | rewind
  deriving DecidableEq, Repr

/-- The expansion of the line numbered `line` (R87). R87's form has at most three operands: any after the third are
dropped (DESIGN CHOICE, log entry 16). -/
def HostLine.expand (line : Nat) : HostLine → List HostOp
  | .op o => [o]
  | .command i operands =>
    (List.zip [Reg.arg0, .arg1, .arg2] operands).map (fun x => .wr x.1 x.2) ++
    [.wr .cmd (.imm (encode i)), .label (.poll line), .rd tempS .status, .bit1 tempS 0 (.poll line), .rd tempR .result]
  | .window a len => [.wr .winStart a, .wr .winLen len]
  | .dict off => [.wr .dictBase off]
  | .seek p => [.wr .streamPos p]
  | .rewind => [.wr .streamPos (.imm 0)]

/-- A program's lines, expanded in order. -/
def assembleFrom : Nat → List HostLine → List HostOp
  | _, [] => []
  | n, l :: ls => l.expand n ++ assembleFrom (n + 1) ls

/-- A host running a program against the block. `gaps` says how many steps the block makes on its own before each
operation (the spec fixes no speed of the host or of the block: log entry 6); past its end, none. -/
structure HostState where
  program : List HostOp
  pc : Nat
  temps : List (Temp × Word)
  gaps : List Nat
  block : State
  deriving DecidableEq, Repr

/-- A temporary's value; each starts at 0 (R86). -/
def readTemp (temps : List (Temp × Word)) (t : Temp) : Word :=
  match temps with
  | [] => 0
  | (x, w) :: rest => if x = t then w else readTemp rest t

/-- A value's word. -/
def HostState.value (h : HostState) : HostValue → Word
  | .imm w => w
  | .temp t => readTemp h.temps t

/-- The position of a label: of its first occurrence where it stands more than once, the program's end where it stands
nowhere (DESIGN CHOICE, log entry 16; R86 is silent on both). -/
def labelPos (l : Label) : List HostOp → Nat
  | [] => 0
  | o :: rest => if o = .label l then 0 else labelPos l rest + 1

/-- The block makes `n` steps on its own. -/
def blockSteps : Nat → State → Host.Outcome State Fault Refusal
  | 0, s => .next s
  | n + 1, s =>
    match step s with
    | .next t => blockSteps n t
    | .fault f => .fault f
    | .refused r => .refused r

/-- One access on the host register port, after `gap` steps of the block. -/
def portAccess (gap : Nat) (e : Input) (s : State) : Host.Outcome State Fault Refusal :=
  match blockSteps gap s with
  | .next t => step { t with inputs := e :: t.inputs }
  | .fault f => .fault f
  | .refused r => .refused r

/-- The host after an operation that did not stop, at position `pc`. -/
def HostState.goTo (h : HostState) (pc : Nat) : HostState := { h with pc := pc, gaps := h.gaps.tail }

/-- The host after writing a temporary. -/
def HostState.setTemp (h : HostState) (t : Temp) (w : Word) : HostState := { h with temps := (t, w) :: h.temps }

/-- One host operation (R86). A bit number of 64 or more, for which R86 gives no range, reads as 0, so `bit1` falls
through (DESIGN CHOICE, log entry 16). Only `wr` and `rd` reach the block; after `halt`, or past the program's end, nothing
changes. -/
def hostStep (h : HostState) : Host.Outcome HostState Fault Refusal :=
  match h.program[h.pc]? with
  | none => .next h
  | some .halt => .next h
  | some (.label _) => .next (h.goTo (h.pc + 1))
  | some (.li t v) => .next ((h.setTemp t (h.value v)).goTo (h.pc + 1))
  | some (.add t v) => .next ((h.setTemp t (readTemp h.temps t + h.value v)).goTo (h.pc + 1))
  | some (.bit1 t b l) => .next (h.goTo (if (readTemp h.temps t).getLsbD b then labelPos l h.program else h.pc + 1))
  | some (.bne t v l) => .next (h.goTo (if readTemp h.temps t = h.value v then h.pc + 1 else labelPos l h.program))
  | some (.wr r v) =>
    match portAccess (h.gaps.headD 0) (.write (regOffset r) 8 (h.value v)) h.block with
    | .next s => .next { h.goTo (h.pc + 1) with block := s }
    | .fault f => .fault f
    | .refused x => .refused x
  | some (.rd t r) =>
    match portAccess (h.gaps.headD 0) (.read (regOffset r) 8) h.block with
    | .next s => .next { (h.setTemp t (s.readData.getD 0)).goTo (h.pc + 1) with block := s }
    | .fault f => .fault f
    | .refused x => .refused x

end Sys2Proof.Machine
end

