-- ==== Sys2Proof/Safety.lean ====
section
/-! DEFINITION. The terms the statements use: what a command computes and which errors and reads it may have; the
invariant of the block; a quiet backing store and the bit stream in it; a conforming dictionary (R61, R62, R163). -/

namespace Sys2Proof.Machine

/-! ### Commands -/

/-- What each command computes, up to its completion (R121 to R193). -/
def commandOf : Instr → Ctx → Engine Word
  | .getbit => getbitCmd
  | .getfield => getfieldCmd
  | .getfieldx => getfieldxCmd
  | .arrayrank => arrayrankCmd
  | .rank1 => rank1Cmd
  | .rank0 => rank0Cmd
  | .select1 => select1Cmd
  | .select0 => select0Cmd
  | .romOffsetbits => romOffsetbitsCmd
  | .romDecode => romDecodeCmd
  | .romSmallrank => romSmallrankCmd

/-- The errors a command's rule lists under "Flags" (R104 to R106, R121 to R123, R140, R160, R162, R192, R193). -/
def allowedErrors : Instr → List ErrorKind
  | .getbit | .getfield | .getfieldx | .arrayrank => [.outOfRange, .storageIO]
  | .rank1 | .rank0 | .select1 | .select0 => [.outOfRange, .corruptDictionary, .storageIO]
  | .romOffsetbits | .romDecode | .romSmallrank => [.outOfRange]

/-- The bound on a command's reads (R262). -/
def readBound : Instr → Nat
  | .getbit => 1
  | .getfield | .getfieldx => 2
  | .arrayrank => 64
  | .rank1 | .rank0 => 133
  | .select1 | .select0 => 323
  | .romOffsetbits | .romDecode | .romSmallrank => 0

/-- Completion with a value after `k` more reads (R224). -/
def State.succeeds (s : State) (v : Word) (k : Nat) : State := { s.completeOk v with reads := s.reads + k }

/-- Completion with an error after `k` more reads (R224). -/
def State.failsWith (s : State) (e : ErrorKind) (info : Word) (k : Nat) : State :=
  { s.completeError e info with reads := s.reads + k }

/-- No completion falls in the next step: nothing is in flight, or what is in flight has steps to go. -/
def State.noCompletionDue (s : State) : Prop := s.eng = .idle ∨ s.wait ≠ 0

/-- The same state with another ARG0 in the snapshot. -/
def State.withArg0 (s : State) (w : Word) : State := { s with snap := { s.snap with arg0 := w } }

/-- The four commands that read a dictionary (R222). -/
def dictionaryCommands : List Instr := [.rank1, .rank0, .select1, .select0]

/-! ### The invariant -/

/-- What holds of the block between steps. While BUSY, DONE, ERRCODE and ERRINFO hold what issue cleared (R38, R255);
ERRINFO is 0 but after StorageIO (R33); RESULT is 0 after an error (R32); the backing store's list is canonical and
lists only addresses the store has (R50); the ROM and PACK meet their constraints (R107, R60). -/
structure State.Inv (s : State) : Prop where
  inFlight : s.eng = .busy → s.done = false ∧ s.errcode = none ∧ s.errinfo = 0
  errinfo : s.errcode ≠ some .storageIO → s.errinfo = 0
  result : s.errcode ≠ none → s.result = 0
  memory : s.store.mem.wf
  addresses : ∀ x ∈ s.store.mem, x.1 < addrSpace s.addrBits
  rom : s.rom.wellFormed = true
  pack : s.pack.wellFormed = true

/-! ### A quiet store, and the bit stream -/

/-- The bytes `[a, a + len)` neither changed nor are volatile, and no read at one of these addresses fails: the host
duties R257 (a) and (c), and READ_FAIL's default. -/
def Store.quiet (st : Store) (a len : Nat) : Prop :=
  ∀ x, a ≤ x → x < a + len → st.arbitrary x = false ∧ ∀ k, st.fails x k = false

/-- The big-endian word at an address of a quiet store (R53). -/
def Store.stableWord (st : Store) (a : Nat) : Word := beWord fun t => st.stableByte (a + t)

/-- Bit `b` of the stream whose first byte is at address `a`: register bit `7 - (b mod 8)` of byte `b / 8` (R73). -/
def Store.streamBit (st : Store) (a b : Nat) : Bool := (st.stableByte (a + b / 8)).getLsbD (7 - b % 8)

/-- The number that `w` bits of a stream from bit `sb` on spell, the first the most significant (R11, R120). -/
def bitsValue (bit : Nat → Bool) (sb : Nat) : Nat → Nat
  | 0 => 0
  | w + 1 => 2 * bitsValue bit sb w + (bit (sb + w)).toNat

/-! ### A dictionary of any contents -/

/-- The view of `c` holds, in a quiet store, a header `n` that the checks of R74 accept; the other words are free. -/
structure HeaderOk (c : Ctx) (st : Store) (n : Nat) : Prop where
  view : c.dictViewOk = true
  quiet : st.quiet (c.dictAddr 0) (8 * c.dictWords)
  length : n < 2 ^ 63
  header : st.stableWord (c.dictAddr 0) = BitVec.ofNat 64 n
  fits : (headerOf n).body ≤ c.dictWords

/-- Dictionary word `j` of a quiet store (R57). -/
def dictEntry (c : Ctx) (st : Store) (j : Nat) : Word := st.stableWord (c.dictAddr j)

/-- The body stream of a dictionary with header `n` (R59, R62). -/
def bodyBit (c : Ctx) (st : Store) (n : Nat) : Nat → Bool := st.streamBit (c.dictAddr (headerOf n).body)

/-- The count of ones before the quarter that holds bit `i`, as the index arrays give it (R161). -/
def quarterRank (c : Ctx) (st : Store) (n i : Nat) : Nat :=
  u64 (dictEntry c st ((headerOf n).rankL3At (i / l3Span)))
    + c.pack.rb (dictEntry c st ((headerOf n).rankL12At (i / l12Span)))
    + deltaSum (c.pack.rd (dictEntry c st ((headerOf n).rankL12At (i / l12Span)))) (i % l12Span / qSpan)

/-- The body offset of the first group of the quarter that holds bit `i`, as the index arrays give it (R161). -/
def quarterPos (c : Ctx) (st : Store) (n i : Nat) : Nat :=
  u64 (dictEntry c st ((headerOf n).posL3At (i / l3Span)))
    + c.pack.pb (dictEntry c st ((headerOf n).posL12At (i / l12Span)))
    + deltaSum (c.pack.pd (dictEntry c st ((headerOf n).posL12At (i / l12Span)))) (i % l12Span / qSpan)

/-- The groups from body offset `pos` on as their codewords stand (R62, R161): after `g` of them, the set bits they
count and the body offset reached. -/
def scannedGroups (r : Rom) (bit : Nat → Bool) (pos : Nat) : Nat → Nat × Nat
  | 0 => (0, pos)
  | g + 1 =>
    ((scannedGroups r bit pos g).1 +
      (if bitsValue bit (scannedGroups r bit pos g).2 classBits = 0 then
        16 * (bit ((scannedGroups r bit pos g).2 + classBits)).toNat
      else bitsValue bit (scannedGroups r bit pos g).2 classBits),
     (scannedGroups r bit pos g).2 + classBits +
      r.offsetBits (bitsValue bit (scannedGroups r bit pos g).2 classBits))

/-- The command ends with CorruptDictionary, after some reads (R222). -/
def State.endsCorrupt (s : State) (i : Instr) : Prop := ∃ k, exec i s = .next (s.failsWith .corruptDictionary 0 k)

/-! ### A conforming dictionary -/

/-- `ones(a, b)` (R61): the set bits of `X` at positions `[a, min(b, n))`. -/
def ones (X : List Bool) (a b : Nat) : Nat := ((X.take b).drop a).count true

/-- The 16-bit pattern of group `g` of `X`, padding bits clear (R11, R62). -/
def vectorGroup (X : List Bool) (g : Nat) : Pattern :=
  BitVec.ofNat 16 (bitsValue (fun i => X.getD i false) (16 * g) 16)

/-- The body length of a run of codewords, each a (class, offset) pair: `4 + offsetBits[class]` bits each (R62). -/
def bodyLength (r : Rom) (cws : List (Nat × Nat)) : Nat := (cws.map fun x => 4 + r.offsetBits x.1).sum

/-- `gstart(g)` (R61): the body offset of group `g`'s codeword; from the last group on, the body's end. -/
def gstart (r : Rom) (cws : List (Nat × Nat)) (g : Nat) : Nat := bodyLength r (cws.take g)

/-- Codeword `x` of group `g` as a conforming builder writes it (R61, R62): class field 0 to 15, offset inside the
table, decoding to the group's pattern, and the two fields at its place in the body. -/
def CodewordOk (r : Rom) (bit : Nat → Bool) (X : List Bool) (g pos : Nat) (x : Nat × Nat) : Prop :=
  x.1 ≤ 15 ∧ x.2 < r.entries x.1 ∧ r.pattern x.1 x.2 = vectorGroup X g ∧
    bitsValue bit pos 4 = x.1 ∧ bitsValue bit (pos + 4) (r.offsetBits x.1) = x.2

/-- The dictionary in the view of `c` is a conforming dictionary of the bit-vector `X` whose body is the codewords
`cws` (R61, R62, R163), built with the block's ROM and PACK (R254), in a quiet store (R257). -/
structure Conforming (c : Ctx) (st : Store) (X : List Bool) (cws : List (Nat × Nat)) : Prop where
  romOk : c.rom.wellFormed = true
  view : c.dictViewOk = true
  quiet : st.quiet (c.dictAddr 0) (8 * c.dictWords)
  length : X.length < 2 ^ 63
  header : st.stableWord (c.dictAddr 0) = BitVec.ofNat 64 X.length
  fits : 64 * (headerOf X.length).body + bodyLength c.rom cws ≤ 64 * c.dictWords
  rankL3 : ∀ m < (headerOf X.length).l3N,
    u64 (st.stableWord (c.dictAddr ((headerOf X.length).rankL3At m))) = ones X 0 (m * l3Span)
  posL3 : ∀ m < (headerOf X.length).l3N,
    u64 (st.stableWord (c.dictAddr ((headerOf X.length).posL3At m))) = gstart c.rom cws (m * 2 ^ 28)
  rankBase : ∀ m < (headerOf X.length).l12N,
    c.pack.rb (st.stableWord (c.dictAddr ((headerOf X.length).rankL12At m)))
      = ones X (m / l12PerL3 * l3Span) (m * l12Span)
  rankDelta : ∀ m < (headerOf X.length).l12N, ∀ q < 3,
    c.pack.rd (st.stableWord (c.dictAddr ((headerOf X.length).rankL12At m))) (q + 1)
      = ones X (m * l12Span + q * qSpan) (m * l12Span + (q + 1) * qSpan)
  posBase : ∀ m < (headerOf X.length).l12N,
    gstart c.rom cws (m / l12PerL3 * 2 ^ 28)
        + c.pack.pb (st.stableWord (c.dictAddr ((headerOf X.length).posL12At m)))
      = gstart c.rom cws (m * 128)
  posDelta : ∀ m < (headerOf X.length).l12N, ∀ q < 3,
    gstart c.rom cws (m * 128 + q * groupsPerQ)
        + c.pack.pd (st.stableWord (c.dictAddr ((headerOf X.length).posL12At m))) (q + 1)
      = gstart c.rom cws (m * 128 + (q + 1) * groupsPerQ)
  groups : cws.length = (X.length + 15) / 16
  codewords : ∀ g, (h : g < cws.length) →
    CodewordOk c.rom (st.streamBit (c.dictAddr (headerOf X.length).body)) X g (gstart c.rom cws g) cws[g]

end Sys2Proof.Machine
end

