-- ==== Sys2Proof/Certificates/Slice0/Obligations.lean ====
section
/-! DEFINITION. The statements about the block, for the provers. Each docstring names the rules it rests on. -/

open Sys2Proof Sys2Proof.Machine

/-! ### Command words -/

/-- Each of the eleven command words, as R82 and R88 spell it, decodes to its command; 0 and a word with a reserved bit
set are illegal (R83). -/
def Obligations.CommandWordsDecodeAsTabled : Prop :=
  decode 0x0000000000000001 = .command .getbit ∧ decode 0x0000000000000002 = .command .getfield ∧
  decode 0x0000000000000003 = .command .getfieldx ∧ decode 0x0000000000000008 = .command .arrayrank ∧
  decode 0x0000000000000010 = .command .rank1 ∧ decode 0x0000000000000011 = .command .rank0 ∧
  decode 0x0000000000000012 = .command .select1 ∧ decode 0x0000000000000013 = .command .select0 ∧
  decode 0x0000000000000020 = .command .romOffsetbits ∧ decode 0x0000000000000021 = .command .romDecode ∧
  decode 0x0000000000000022 = .command .romSmallrank ∧
  decode 0x0000000000000000 = .illegal .unassignedOpcode ∧ decode 0x0000000000000110 = .illegal .reservedBits

/-- Decoding is total (R84): every word is the word of exactly one command and decodes to it, or is no command's word
and decodes to an illegal command. So decode and encode agree both ways. -/
def Obligations.EveryWordDecodesToOneCommandOrIllegal : Prop :=
  ∀ w : Word,
    (∃ i, decode w = .command i ∧ encode i = w ∧ ∀ j, encode j = w → j = i) ∨
    ((∃ y, decode w = .illegal y) ∧ ∀ j, encode j ≠ w)

/-- The illegal words are those R83 lists. -/
def Obligations.IllegalWordsAreThoseListed : Prop :=
  ∀ w : Word, (∃ y, decode w = .illegal y) ↔
    (w.toNat / 256 ≠ 0 ∨ w.toNat % 256 = 0x00 ∨ (0x04 ≤ w.toNat % 256 ∧ w.toNat % 256 ≤ 0x07) ∨
      (0x09 ≤ w.toNat % 256 ∧ w.toNat % 256 ≤ 0x0F) ∨ (0x14 ≤ w.toNat % 256 ∧ w.toNat % 256 ≤ 0x1F) ∨
      0x23 ≤ w.toNat % 256)

/-! ### Issue, steps, completion -/

/-- A step that completes a command runs exactly the decoded command (R38, R84), on the state the step's input left: the
per-command statements reach a run through this one. An illegal word completes with IllegalCommand (R225). That the
whole command, its reads included, runs in that one step and after whatever input the step has (a register read, a host
store, a change of READ_FAIL) is the model's choice (log entries 8 and 14): R231 orders only CMD and STATUS writes. -/
def Obligations.StepRunsTheDecodedCommand : Prop :=
  ∀ s u : State, s.eng = .busy → s.wait = 0 → s.nextInput ≠ .reset →
    s.takeInput.applyInput s.nextInput = .next u →
    (∀ i, decode s.snap.cmd = .command i → step s = exec i u) ∧
    (∀ y, decode s.snap.cmd = .illegal y → step s = .next (u.completeError .illegalCommand 0))

/-- Issue (R38, R39): a CMD write while IDLE snapshots the operands and configuration, sets BUSY, clears DONE, ERRCODE
and ERRINFO, and leaves OVR, RESULT and every other register. -/
def Obligations.IssueTakesTheSnapshot : Prop :=
  ∀ (s : State) (w : Word) (rest : List Input), s.eng = .idle → s.inputs = .write 0x08 8 w :: rest →
    ∃ t, step s = .next t ∧ t.eng = .busy ∧
      t.snap = ⟨w, s.arg0, s.arg1, s.arg2, s.winStart, s.winLen, s.streamPos, s.dictBase⟩ ∧
      t.done = false ∧ t.errcode = none ∧ t.errinfo = 0 ∧ t.ovr = s.ovr ∧ t.result = s.result ∧ t.ie = s.ie ∧
      t.arg0 = s.arg0 ∧ t.arg1 = s.arg1 ∧ t.arg2 = s.arg2 ∧ t.winStart = s.winStart ∧ t.winLen = s.winLen ∧
      t.streamPos = s.streamPos ∧ t.dictBase = s.dictBase ∧ t.rom = s.rom ∧ t.pack = s.pack ∧
      t.addrBits = s.addrBits ∧ t.store.mem = s.store.mem ∧ t.reads = s.reads ∧ t.inputs = rest

/-- A CMD write while BUSY is dropped and sets OVR; the command in flight goes on unchanged (R28, R261). -/
def Obligations.CmdWriteWhileBusyIsDropped : Prop :=
  ∀ (s : State) (w : Word) (n : Nat) (rest : List Input),
    s.eng = .busy → s.wait = n + 1 → s.inputs = .write 0x08 8 w :: rest →
    step s = .next { s with ovr := true, wait := n, inputs := rest, readData := none }

/-- The two simultaneous events of R231, against the same step with no host act: a CMD write in the step of a
completion is dropped and sets OVR; a write of STATUS in that step does not clear the DONE the completion sets. -/
def Obligations.CompletionWinsOverSameStepWrites : Prop :=
  ∀ (s : State) (w v : Word) (rest : List Input), s.eng = .busy → s.wait = 0 →
    ∃ t, step { s with inputs := .idle :: rest } = .next t ∧ t.done = true ∧ t.eng = .idle ∧
      step { s with inputs := .write 0x08 8 w :: rest } = .next { t with ovr := true } ∧
      step { s with inputs := .write 0x10 8 v :: rest } = .next { t with ovr := t.ovr && !v.getLsbD 3 }

/-- An illegal word is issued like any other and completes at once with IllegalCommand, in every state: no read is
made, OVR, the operands and the configuration stay (R83, R225). That "at once" is the step after the issue is the
model's choice (log entry 1). -/
def Obligations.IllegalCommandCompletesAtOnce : Prop :=
  ∀ (s : State) (w : Word) (y : Illegal), s.eng = .idle → s.inputs = [.write 0x08 8 w] → decode w = .illegal y →
    ∃ t, Sys2Proof.core.run 2 s = .next t ∧ t.eng = .idle ∧ t.done = true ∧ t.result = 0 ∧ t.errinfo = 0 ∧
      t.errcode = some .illegalCommand ∧ t.ovr = s.ovr ∧ t.reads = s.reads ∧ t.arg0 = s.arg0 ∧ t.arg1 = s.arg1 ∧
      t.arg2 = s.arg2 ∧ t.winStart = s.winStart ∧ t.winLen = s.winLen ∧ t.streamPos = s.streamPos ∧
      t.dictBase = s.dictBase ∧ t.ie = s.ie

/-- A command in flight whose time is `n` steps away completes in the step after them, when the host does nothing
meanwhile (R52, R262: a finite number of steps). -/
def Obligations.CommandInFlightCompletes : Prop :=
  ∀ (n : Nat) (s : State), s.eng = .busy → s.wait = n → s.inputs = [] →
    ∃ t, Sys2Proof.core.run (n + 1) s = .next t ∧
      State.finishCommand { s with wait := 0, readData := none } = .next t ∧ t.done = true ∧ t.eng = .idle

/-- From the CMD write to completion (R38, R52, R262): a command issued while IDLE completes after finitely many
steps, with what the command's meaning gives on the snapshot, the parameters and the backing store at issue. -/
def Obligations.IssuedCommandReachesItsCompletion : Prop :=
  ∀ (s : State) (i : Instr), s.eng = .idle → s.inputs = [.write 0x08 8 (encode i)] →
    ∃ n u t, Sys2Proof.core.run n s = .next t ∧ exec i u = .next t ∧ t.done = true ∧ t.eng = .idle ∧
      u.snap = ⟨encode i, s.arg0, s.arg1, s.arg2, s.winStart, s.winLen, s.streamPos, s.dictBase⟩ ∧
      u.rom = s.rom ∧ u.pack = s.pack ∧ u.addrBits = s.addrBits ∧ u.store = { s.store with changed := [] } ∧ u.reads = s.reads ∧
      u.ovr = s.ovr ∧ u.ie = s.ie ∧ u.result = s.result

/-- Completion (R224): every command ends in exactly one of the two ways, writes RESULT, ERRCODE, ERRINFO, DONE and
the engine state as that way says, and changes nothing else (the count of reads is the model's own). -/
def Obligations.CompletionWritesResultAndStatus : Prop :=
  ∀ (i : Instr) (s : State),
    (∃ v k, commandOf i s.ctx s.store s.reads = .ret v k ∧
      exec i s = .next { s with result := v, errcode := none, errinfo := 0, done := true, eng := .idle, reads := k }) ∨
    (∃ e info k, commandOf i s.ctx s.store s.reads = .err e info k ∧
      exec i s = .next { s with result := 0, errcode := some e, errinfo := info, done := true, eng := .idle, reads := k } ∧
      ∀ t, exec i s = .next t → (t.readReg .status).extractLsb' 8 4 = (match e with
        | .outOfRange => 1
        | .corruptDictionary => 2
        | .storageIO => 3
        | .illegalCommand => 4))

/-- The frame of all eleven commands (R224): the operand and configuration registers, CTRL, OVR, the ROM, PACK,
ADDR_BITS, the snapshot and every byte of the backing store are as before. A command writes no special register but RESULT, STATUS
(DONE, ERR, ERRCODE, BUSY) and ERRINFO. -/
def Obligations.CommandsLeaveEverythingElse : Prop :=
  ∀ (i : Instr) (s t : State), exec i s = .next t →
    (∀ r : Reg, r ≠ .result → r ≠ .errinfo → r ≠ .status → t.readReg r = s.readReg r) ∧
    t.ovr = s.ovr ∧ t.rom = s.rom ∧ t.pack = s.pack ∧ t.addrBits = s.addrBits ∧ t.snap = s.snap ∧ t.inputs = s.inputs ∧
    t.store.changed = s.store.changed ∧ t.store.failing = s.store.failing ∧ t.store.volatile = s.store.volatile ∧
    ∀ a, t.store.mem.get? a = s.store.mem.get? a

/-- No step faults, and the only steps without a meaning are a host access that is not an aligned 64-bit one (R23, R226)
and a host store to an address the backing store does not have (R50; the model's choice, log entry 12). -/
def Obligations.StepStopsOnlyOnUndefinedHostAccess : Prop :=
  ∀ s : State, (∃ t, step s = .next t) ∨
    (∃ off n, step s = .refused (.undefinedHostAccess off n) ∧ ¬(n = 8 ∧ off.toNat % 8 = 0) ∧
      (s.nextInput = .read off n ∨ ∃ v, s.nextInput = .write off n v)) ∨
    ∃ a b, step s = .refused (.noSuchAddress a) ∧ s.nextInput = .store a b ∧ 2 ^ min s.addrBits 64 ≤ a.toNat

/-- The errors of each command are those its rule lists (R104 to R106, R121 to R123, R140, R160, R162, R192, R193);
CorruptDictionary is raised by the four dictionary commands only (R222), IllegalCommand by none. OutOfRange is raised for
the causes R221 gives the command, alone: an operand, the view or the span of the extractor and of ARRAYRANK; an index
beyond the table for the ROM commands; the view, or an index at or beyond the header `n`, for RANK1 and RANK0; a negative
`k`, the view, or a `k` at or beyond the count that RANK1 of `n - 1` gives, for SELECT1 and SELECT0 (R191). The view checks
take the address space from ADDR_BITS (log entry 12). -/
def Obligations.CommandsRaiseOnlyTheirErrors : Prop :=
  ∀ (i : Instr) (s t : State) (e : ErrorKind), exec i s = .next t → t.errcode = some e →
    e ∈ allowedErrors i ∧
    (e = .outOfRange → match i with
      | .getbit => s.ctx.longViewOk = false ∨ s.ctx.longWords ≤ s.ctx.streamPos + s.ctx.arg0U / 64
      | .getfield => s.ctx.arg1U < 1 ∨ 64 < s.ctx.arg1U ∨ s.ctx.longViewOk = false ∨
          s.ctx.longWords ≤ s.ctx.streamPos + (s.ctx.arg0U + s.ctx.arg1U - 1) / 64
      | .getfieldx => s.ctx.arg1U < 1 ∨ 64 < s.ctx.arg1U ∨ 2 ^ 64 ≤ s.ctx.arg0U * s.ctx.arg1U ∨
          s.ctx.longViewOk = false ∨ s.ctx.longWords ≤ (s.ctx.arg0U * s.ctx.arg1U + s.ctx.arg1U - 1) / 64
      | .arrayrank => s.ctx.longViewOk = false ∨ s.ctx.longWords < s.ctx.arg0U + s.ctx.arg1U
      | .romOffsetbits => 16 < s.ctx.arg0U
      | .romDecode => 16 < s.ctx.arg0U ∨ s.rom.entries s.ctx.arg0U ≤ s.ctx.arg1U
      | .romSmallrank => 0xFFFF < s.ctx.arg0U ∨ 16 < s.ctx.arg1U
      | .rank1 | .rank0 => s.ctx.dictViewOk = false ∨ s64 (s.store.word (s.ctx.dictAddr 0) s.reads) ≤ s.ctx.arg0S
      | .select1 | .select0 => s.ctx.arg0S < 0 ∨ s.ctx.dictViewOk = false ∨
          u64 (s.store.word (s.ctx.dictAddr 0) s.reads) = 0 ∨
          ∃ u, exec .rank1 (s.withArg0 (s.store.word (s.ctx.dictAddr 0) s.reads - 1)) = .next u ∧ u.errcode = none ∧
            if i = .select1 then (u.result.toNat : Int) ≤ s.ctx.arg0S
            else (u64 (s.store.word (s.ctx.dictAddr 0) s.reads) : Int) - u.result.toNat ≤ s.ctx.arg0S)

/-- StorageIO and ERRINFO (R33, R53, R223). After StorageIO, ERRINFO is the byte address of the read that the port
answered with an error, the last the command made; it is 0 after every other completion. And every read a command makes
can end it so: read number `k` of a command goes to one address `a`, fixed by the answers to the reads before it, and in
a store that answers those alike and answers it with an error, the command ends there with StorageIO and `a`. GETBIT's
one read is its case with the address written out. -/
def Obligations.ErrinfoIsTheFailingAddress : Prop :=
  (∀ (i : Instr) (s t : State), exec i s = .next t →
    (t.errcode ≠ some .storageIO → t.errinfo = 0) ∧
    (t.errcode = some .storageIO → ∃ a k, s.store.respond a k = .error ∧ t.errinfo = BitVec.ofNat 64 a ∧
      s.reads ≤ k ∧ t.reads = k + 1)) ∧
  (∀ (i : Instr) (s t : State) (k : Nat), exec i s = .next t → s.reads ≤ k → k < t.reads →
    ∃ a, ∀ st : Store, (∀ b j, j < k → st.respond b j = s.store.respond b j) → st.respond a k = .error →
      exec i { s with store := st } = .next { State.completeError { s with store := st } .storageIO (BitVec.ofNat 64 a)
        with reads := k + 1 }) ∧
  ∀ s : State, s.ctx.longViewOk = true → s.ctx.streamPos + s.ctx.arg0U / 64 < s.ctx.longWords →
    s.store.respond (s.ctx.longAddr (s.ctx.streamPos + s.ctx.arg0U / 64)) s.reads = .error →
    exec .getbit s = .next (s.failsWith .storageIO
      (BitVec.ofNat 64 (s.ctx.longAddr (s.ctx.streamPos + s.ctx.arg0U / 64))) 1)

/-- The read bounds of R262, for every dictionary, conforming or not. -/
def Obligations.ReadsStayWithinTheBounds : Prop :=
  ∀ (i : Instr) (s t : State), exec i s = .next t → s.reads ≤ t.reads ∧ t.reads ≤ s.reads + readBound i

/-! ### Isolation -/

/-- No command reads outside the window (R54, R66): two backing stores that answer alike for every word lying whole in
a well-formed window give the same completion. That the window's bound, 2^64 in R54, is 2^ADDR_BITS (R8), at most 2^64, is
the model's reading (DEDUCED, log entry 12). -/
def Obligations.CommandsReadOnlyTheWindow : Prop :=
  ∀ (i : Instr) (s t : State) (st : Store),
    (∀ a k, s.ctx.winStart ≤ a → a + 8 ≤ s.ctx.winStart + s.ctx.winLen → s.ctx.winStart + s.ctx.winLen ≤ 2 ^ min s.addrBits 64 →
      s.store.respond a k = st.respond a k) →
    exec i s = .next t → exec i { s with store := st } = .next { t with store := st }

/-- A host write while BUSY, to any offset, does not affect the command in flight (R26, R39): it completes with the
same RESULT, ERRCODE and ERRINFO, after the same reads. -/
def Obligations.HostWritesDoNotReachTheCommandInFlight : Prop :=
  ∀ (i : Instr) (s t : State) (off : BitVec 8) (v : Word), s.eng = .busy → exec i s = .next t →
    ∃ u, exec i (s.writeOffset off v) = .next u ∧ u.result = t.result ∧ u.errcode = t.errcode ∧
      u.errinfo = t.errinfo ∧ u.reads = t.reads

/-! ### Invariants -/

/-- The state after reset (R44): ID its constant, every other register 0, the engine idle, irq deasserted, the default
ROM, PACK and ADDR_BITS (R8); and the invariant holds. (The counters, the pending inputs and the snapshot's zeros are the model's
own choice, log entries 1, 2 and 6, and are not stated.) -/
def Obligations.ResetLeavesTheTabledValues : Prop :=
  State.reset.readReg .id = 0x53554343494E4354 ∧ (∀ r : Reg, r ≠ .id → State.reset.readReg r = 0) ∧
  State.reset.eng = .idle ∧ State.reset.irq = false ∧ State.reset.rom = defaultRom ∧
  State.reset.pack = defaultPack ∧ State.reset.addrBits = 64 ∧ State.reset.Inv

/-- Every step keeps the invariant: what issue cleared stays clear while BUSY (R38, R255), ERRINFO is 0 but after
StorageIO (R33), RESULT is 0 after an error (R32), the ROM and PACK keep their constraints (R40, R107), the backing
store's list stays canonical and inside the address space (R50). -/
def Obligations.EveryStepKeepsTheInvariant : Prop :=
  ∀ s t : State, s.Inv → step s = .next t → t.Inv

/-- No command, host write, other input or reset changes the parameters: the ROM (R40), PACK and ADDR_BITS (R8). -/
def Obligations.RomAndPackNeverChange : Prop :=
  ∀ s t : State, step s = .next t → t.rom = s.rom ∧ t.pack = s.pack ∧ t.addrBits = s.addrBits

/-- The block never writes the backing store (R50): its bytes change only by a host store, and then only the byte
stored. -/
def Obligations.OnlyHostStoresChangeTheBackingStore : Prop :=
  ∀ s t : State, step s = .next t →
    ((∀ a b, s.nextInput ≠ .store a b) → t.store.mem = s.store.mem) ∧
    ∀ a b, s.nextInput = .store a b →
      ∀ x, t.store.stableByte x = if x = a.toNat then b else s.store.stableByte x

/-- ARG0 to ARG2, CTRL, WIN_START, WIN_LEN, STREAM_POS and DICT_BASE change only by a host write of that register or by
reset (R30, R31, R34 to R37, R259): no command writes them. -/
def Obligations.OnlyTheHostWritesOperandRegisters : Prop :=
  ∀ (s t : State) (r : Reg), step s = .next t → s.nextInput ≠ .reset →
    r ∈ [Reg.ctrl, .arg0, .arg1, .arg2, .winStart, .winLen, .streamPos, .dictBase] →
    (∀ v, s.nextInput ≠ .write (regOffset r) 8 v) → t.readReg r = s.readReg r

/-- What changes OVR, DONE, ERRCODE, RESULT, ERRINFO and the engine state, over every step (R28, R29, R32, R33, R38, R42,
R237, R261). OVR: set by a CMD write while BUSY, cleared by a host write of STATUS with bit 3 set or by reset, by nothing
else. The rest: reset; the completion that falls due, whose values `StepRunsTheDecodedCommand` gives; in any other step an
issue, or for DONE a host write of STATUS with bit 1 set, and nothing else, whatever the input is. -/
def Obligations.FlagsAndResultsChangeOnlyByTheirEvents : Prop :=
  ∀ s t : State, step s = .next t →
    (t.ovr = match s.nextInput with
      | .reset => false
      | .write off _ v =>
        if off = 0x08 ∧ s.eng = .busy then true
        else if off = 0x10 then s.ovr && !v.getLsbD 3
        else s.ovr
      | _ => s.ovr) ∧
    (s.nextInput = .reset →
      t.eng = .idle ∧ t.done = false ∧ t.errcode = none ∧ t.result = 0 ∧ t.errinfo = 0) ∧
    (s.nextInput ≠ .reset → s.eng = .busy → s.wait = 0 → t.eng = .idle ∧ t.done = true) ∧
    (s.nextInput ≠ .reset → s.noCompletionDue →
      t.result = s.result ∧
      ((∃ n w, s.nextInput = .write 0x08 n w) → s.eng = .idle →
        t.eng = .busy ∧ t.done = false ∧ t.errcode = none ∧ t.errinfo = 0) ∧
      ((∀ n w, s.nextInput ≠ .write 0x08 n w) ∨ s.eng = .busy →
        t.eng = s.eng ∧ t.errcode = s.errcode ∧ t.errinfo = s.errinfo ∧
        t.done = match s.nextInput with
          | .write off _ v => if off = 0x10 then s.done && !v.getLsbD 1 else s.done
          | _ => s.done))

/-! ### The host register port -/

/-- A read of any offset changes no state (R25): the step is the step with no host act, but for the port's data lines,
which carry the answer. What the answer is in the very step of a completion (the values before it) is the model's choice,
log entry 8. -/
def Obligations.RegisterReadsHaveNoSideEffect : Prop :=
  ∀ (s : State) (off : BitVec 8) (rest : List Input), off.toNat % 8 = 0 →
    ∃ t, step { s with inputs := .idle :: rest } = .next t ∧
      step { s with inputs := .read off 8 :: rest } = .next { t with readData := some (s.readOffset off) }

/-- A narrower, wider or misaligned host access is refused; an aligned 64-bit one, read or write, is not (R23). -/
def Obligations.UndefinedHostAccessIsRefused : Prop :=
  ∀ (s : State) (off : BitVec 8) (n : Nat) (v : Word) (rest : List Input),
    (¬(n = 8 ∧ off.toNat % 8 = 0) →
      step { s with inputs := .read off n :: rest } = .refused (.undefinedHostAccess off n) ∧
      step { s with inputs := .write off n v :: rest } = .refused (.undefinedHostAccess off n)) ∧
    (n = 8 ∧ off.toNat % 8 = 0 →
      (∃ t, step { s with inputs := .read off n :: rest } = .next t) ∧
      ∃ t, step { s with inputs := .write off n v :: rest } = .next t)

/-- The reserved offsets 0x68 to 0xF8 read 0 and ignore writes (R24). -/
def Obligations.ReservedOffsetsReadZero : Prop :=
  ∀ (s : State) (off : BitVec 8) (v : Word), 0x68 ≤ off.toNat →
    s.readOffset off = 0 ∧ s.writeOffset off v = s

/-- ID is the constant "SUCCINCT" in every state, the reset state among them, and writes to it are ignored (R27). -/
def Obligations.IdIsConstant : Prop :=
  ∀ s : State, s.readOffset 0x00 = 0x53554343494E4354 ∧
    (s.readOffset 0x00).extractLsb' 56 8 = 0x53 ∧ ∀ v, s.writeOffset 0x00 v = s

/-- A host write of a register other than STATUS, in any step, a command in flight or completing or not (R22, R26 to R37):
the register reads as written at once (CTRL keeps bit 0, CMD reads 0, ID, RESULT and ERRINFO ignore the write, unless a
CMD write issues), and no other register changes unless CMD is written. A completion in the same step writes RESULT,
ERRINFO and STATUS. That RESULT and ERRINFO ignore writes is log entry 9. -/
def Obligations.RegistersReadBackWhatIsWritten : Prop :=
  ∀ (s t : State) (r : Reg) (v : Word) (rest : List Input), r ≠ .status →
    s.inputs = .write (regOffset r) 8 v :: rest → step s = .next t →
    (s.noCompletionDue ∨ r ∉ [Reg.result, .errinfo] →
      t.readReg r = match r with
        | .id => 0x53554343494E4354
        | .cmd => 0
        | .ctrl => v &&& 1
        | .result => s.result
        | .errinfo => s.errinfo
        | _ => v) ∧
    (r ≠ .cmd → ∀ r', r' ≠ r → s.noCompletionDue ∨ r' ∉ [Reg.result, .errinfo, .status] →
      t.readReg r' = s.readReg r')

/-- STATUS, bit by bit (R29, R38, R220): BUSY exactly when the engine is BUSY, DONE, ERR exactly when ERRCODE is not 0,
OVR, the error code, and zeros. -/
def Obligations.StatusFieldsAreAsTabled : Prop :=
  ∀ s : State, (s.readReg .status).getLsbD 0 = decide (s.eng = .busy) ∧ (s.readReg .status).getLsbD 1 = s.done ∧
    (s.readReg .status).getLsbD 2 = decide ((s.readReg .status).extractLsb' 8 4 ≠ 0) ∧
    (s.readReg .status).getLsbD 3 = s.ovr ∧ (s.readReg .status).extractLsb' 4 4 = 0 ∧
    (s.readReg .status).extractLsb' 8 4 = (match s.errcode with
      | none => 0
      | some .outOfRange => 1
      | some .corruptDictionary => 2
      | some .storageIO => 3
      | some .illegalCommand => 4) ∧
    (s.readReg .status).extractLsb' 12 52 = 0

/-- A host write of STATUS, in a step in which no command completes, clears DONE where bit 1 is set and OVR where bit 3
is set, and does nothing else (R29, R229): the next state, whole. A command in flight has one step less to go. -/
def Obligations.StatusWriteClearsOnlyDoneAndOvr : Prop :=
  ∀ (s : State) (v : Word) (rest : List Input), s.noCompletionDue → s.inputs = .write 0x10 8 v :: rest →
    step s = .next { s with
      done := s.done && !v.getLsbD 1
      ovr := s.ovr && !v.getLsbD 3
      wait := if s.eng = .busy then s.wait - 1 else s.wait
      inputs := rest
      readData := none }

/-- The interrupt (R230): the level is STATUS.DONE and CTRL.IE; every completion, success or
error, an illegal word's included, raises it exactly when IE is set; clearing DONE, issue and clearing IE lower it; setting IE while DONE is pending raises it; an overrun does not change it. -/
def Obligations.InterruptFollowsCompletion : Prop :=
  (∀ s : State, s.irq = ((s.readReg .status).getLsbD 1 && (s.readReg .ctrl).getLsbD 0)) ∧
  (∀ (i : Instr) (s t : State), exec i s = .next t → t.irq = s.ie) ∧
  (∀ s t : State, s.finishCommand = .next t → t.irq = s.ie) ∧
  (∀ (s : State) (v : Word), v.getLsbD 1 = true → (s.writeReg v .status).irq = false) ∧
  (∀ (s : State) (v : Word), (s.writeReg v .ctrl).irq = (s.done && v.getLsbD 0)) ∧
  (∀ (s : State) (w : Word), s.eng = .idle → (s.writeReg w .cmd).irq = false) ∧
  (∀ (s : State) (w : Word), s.eng = .busy → (s.writeReg w .cmd).irq = s.irq)

/-- Reset, at power-up or later, a command in flight or not (R250, R251): every register takes its value of R44, the
engine is IDLE, irq deasserted; the parameters and the backing store are not touched; no error, no result, no DONE of the
abandoned command appears. -/
def Obligations.ResetAbandonsTheCommandInFlight : Prop :=
  ∀ (s : State) (rest : List Input), s.inputs = .reset :: rest →
    ∃ t, step s = .next t ∧ (∀ r : Reg, t.readReg r = State.reset.readReg r) ∧ t.eng = .idle ∧ t.irq = false ∧
      t.rom = s.rom ∧ t.pack = s.pack ∧ t.addrBits = s.addrBits ∧ t.store = s.store ∧ t.inputs = rest

/-- A byte stored to while a command is in flight reads as an arbitrary value in that command, neither the old nor the
new one, and no other byte becomes arbitrary (R51). That a store of the value the byte already holds counts as a change, and
that the other bytes of the same read keep their values, is the model's choice (log entry 5). The step that completes the command is no exception: the command runs
there on the store so changed (the model's choice, log entry 14). An issue starts afresh: only the bytes listed as
volatile are then arbitrary (R64, R257 (c); that this list is plain data, and that the record of changed bytes is
emptied at issue, is log entry 5). -/
def Obligations.ChangedBytesReadAsArbitrary : Prop :=
  (∀ (s t : State) (a : Word) (b : Byte), s.eng = .busy → s.nextInput = .store a b → step s = .next t →
    (s.wait ≠ 0 → t.eng = .busy) ∧
    (s.wait = 0 → ∀ i, decode s.snap.cmd = .command i → ∃ u, exec i u = .next t ∧ u.snap = s.snap ∧ u.store = t.store) ∧
    (∀ k n, t.store.byteAt a.toNat k n = Config.arbitraryByte k n) ∧
    ∀ x, x ≠ a.toNat → t.store.arbitrary x = s.store.arbitrary x) ∧
  (∀ (s : State) (w : Word) (l x : Nat), (s.issue w l).store.arbitrary x = s.store.volatile.contains x)

/-! ### The rank-table ROM -/

/-- Class 0 is fixed whatever the ROM parameter is (R100). -/
def Obligations.ClassZeroIsFixed : Prop :=
  ∀ r : Rom, r.offsetBits 0 = 1 ∧ r.entries 0 = 2 ∧ r.pattern 0 0 = 0x0000 ∧ r.pattern 0 1 = 0xFFFF

/-- ROM_OFFSETBITS (R104): its opcode, its two outcomes for every class, its corner cases and example. No memory is
read. -/
def Obligations.RomOffsetbitsReturnsTheWidth : Prop :=
  encode .romOffsetbits = 0x20 ∧
  (∀ s : State, s.ctx.arg0U ≤ 16 →
    exec .romOffsetbits s = .next (s.succeeds (zext64 (s.rom.offsetBits s.ctx.arg0U)) 0)) ∧
  (∀ s : State, 16 < s.ctx.arg0U → exec .romOffsetbits s = .next (s.failsWith .outOfRange 0 0)) ∧
  (∀ r : Rom, r.offsetBits 0 = 1) ∧ defaultRom.offsetBits 16 = 0 ∧ defaultRom.offsetBits 8 = 14

/-- ROM_DECODE (R105): its opcode, its outcomes for every class and offset, the result below 2^16, its corner cases and
example. No memory is read. -/
def Obligations.RomDecodeReturnsThePattern : Prop :=
  encode .romDecode = 0x21 ∧
  (∀ s : State, s.ctx.arg0U ≤ 16 → s.ctx.arg1U < s.rom.entries s.ctx.arg0U →
    exec .romDecode s = .next (s.succeeds (zext64 (s.rom.pattern s.ctx.arg0U s.ctx.arg1U).toNat) 0) ∧
    (zext64 (s.rom.pattern s.ctx.arg0U s.ctx.arg1U).toNat).toNat < 2 ^ 16) ∧
  (∀ s : State, 16 < s.ctx.arg0U ∨ s.rom.entries s.ctx.arg0U ≤ s.ctx.arg1U →
    exec .romDecode s = .next (s.failsWith .outOfRange 0 0)) ∧
  (∀ r : Rom, r.pattern 0 0 = 0x0000 ∧ r.pattern 0 1 = 0xFFFF ∧ r.entries 0 = 2) ∧
  defaultRom.entries 16 = 1 ∧ defaultRom.pattern 16 0 = 0xFFFF ∧ defaultRom.entries 8 = 12870 ∧
  defaultRom.pattern 3 545 = 0xB000

/-- ROM_SMALLRANK (R106): its opcode, its outcomes for every pattern and prefix length, its corner cases and example.
No memory is read. -/
def Obligations.RomSmallrankReturnsThePrefixRank : Prop :=
  encode .romSmallrank = 0x22 ∧
  (∀ s : State, s.ctx.arg0U ≤ 0xFFFF → s.ctx.arg1U ≤ 16 →
    exec .romSmallrank s =
      .next (s.succeeds (zext64 (smallRank (BitVec.ofNat 16 s.ctx.arg0U) s.ctx.arg1U)) 0)) ∧
  (∀ s : State, 0xFFFF < s.ctx.arg0U ∨ 16 < s.ctx.arg1U →
    exec .romSmallrank s = .next (s.failsWith .outOfRange 0 0)) ∧
  (∀ p : Pattern, smallRank p 0 = 0 ∧ smallRank p 16 = popcount p) ∧ smallRank 0xFFFF 16 = 16 ∧ smallRank 0xB000 3 = 2

/-- `smallRank[p][l]` is the number of 1 bits among the first `l` bits of the group, group bit `j` being register bit
`15 - j`; so it is the popcount of `p` shifted right by `16 - l`, with the ends and the examples of R103. -/
def Obligations.SmallRankCountsThePrefix : Prop :=
  ∀ (p : Pattern) (l : Nat), l ≤ 16 →
    smallRank p l = ((List.range l).countP fun j => p.getLsbD (15 - j)) ∧ smallRank p l = popcount (p >>> (16 - l)) ∧
    smallRank p 0 = 0 ∧ smallRank p 16 = popcount p ∧ [1, 2, 3, 4].map (smallRank 0xB000) = [1, 1, 2, 3] ∧
    smallRank 0x0001 15 = 0 ∧ smallRank 0x0001 16 = 1

/-- A table in ascending order, as the default ROM's (R102): for each class 1 to 16 and offset below C(16, class), the
pattern has the class as its popcount, and exactly `offset` smaller 16-bit values have that popcount. -/
def Obligations.AscendingTableHoldsTheNthPattern : Prop :=
  ∀ cls o : Nat, 1 ≤ cls → cls ≤ 16 → o < Nat.choose 16 cls →
    defaultRom.entries cls = Nat.choose 16 cls ∧ popcount (defaultRom.pattern cls o) = cls ∧
    ((List.range (defaultRom.pattern cls o).toNat).countP fun v => onesBelow v 16 == cls) = o

/-! ### The bit-field extractor -/

/-- GETBIT completes with bit `STREAM_POS * 64 + i` of the long view's stream, after one read, when the view is
well-formed, the word is inside it and its bytes are quiet (R121, R73). -/
def Obligations.GetbitReturnsTheStreamBit : Prop :=
  ∀ s : State, s.ctx.longViewOk = true → s.ctx.streamPos + s.ctx.arg0U / 64 < s.ctx.longWords →
    s.store.quiet s.ctx.winStart s.ctx.winLen →
    exec .getbit s = .next (s.succeeds
      (zext64 (s.store.streamBit s.ctx.winStart (64 * s.ctx.streamPos + s.ctx.arg0U)).toNat) 1)

/-- GETFIELD completes with the number its `w` stream bits from `STREAM_POS * 64 + sb` on spell, MSB-first, after one
read or, when the field crosses a word boundary, two (R120, R122, R73). -/
def Obligations.GetfieldReturnsTheStreamField : Prop :=
  ∀ s : State, 1 ≤ s.ctx.arg1U → s.ctx.arg1U ≤ 64 → s.ctx.longViewOk = true →
    s.ctx.streamPos + (s.ctx.arg0U + s.ctx.arg1U - 1) / 64 < s.ctx.longWords →
    s.store.quiet s.ctx.winStart s.ctx.winLen →
    exec .getfield s = .next (s.succeeds
      (zext64 (bitsValue (s.store.streamBit s.ctx.winStart) (64 * s.ctx.streamPos + s.ctx.arg0U) s.ctx.arg1U))
      (if s.ctx.arg0U % 64 + s.ctx.arg1U ≤ 64 then 1 else 2))

/-- GETFIELDX completes with element `x` of the array of `w`-bit fields packed from word 0 of the long view on,
whatever STREAM_POS is (R123). -/
def Obligations.GetfieldxReturnsThePackedElement : Prop :=
  ∀ s : State, 1 ≤ s.ctx.arg1U → s.ctx.arg1U ≤ 64 → s.ctx.arg0U * s.ctx.arg1U < 2 ^ 64 → s.ctx.longViewOk = true →
    (s.ctx.arg0U * s.ctx.arg1U + s.ctx.arg1U - 1) / 64 < s.ctx.longWords →
    s.store.quiet s.ctx.winStart s.ctx.winLen →
    exec .getfieldx s = .next (s.succeeds
      (zext64 (bitsValue (s.store.streamBit s.ctx.winStart) (s.ctx.arg0U * s.ctx.arg1U) s.ctx.arg1U))
      (if s.ctx.arg0U * s.ctx.arg1U % 64 + s.ctx.arg1U ≤ 64 then 1 else 2))

/-- GETFIELD of width 1 completes exactly as GETBIT: the same RESULT, ERRCODE and read, in every state (R125). -/
def Obligations.GetfieldWidthOneAgreesWithGetbit : Prop :=
  ∀ s : State, s.ctx.arg1U = 1 → exec .getfield s = exec .getbit s

/-- The two-word field is `hi | lo`, and every shift amount of the extractor lies in [0, 63] (R124). -/
def Obligations.FieldIsHighOrLow : Prop :=
  ∀ (a b : Word) (s w : Nat), s ≤ 63 → 1 ≤ w → w ≤ 64 →
    (64 < s + w → fieldTwo a b s w = (((a <<< s) >>> (64 - w)) ||| (b >>> (128 - s - w))).toNat ∧
      1 ≤ 128 - s - w ∧ 128 - s - w ≤ 63) ∧
    64 - w ≤ 63 ∧ fieldOne a s w < 2 ^ w ∧ fieldTwo a b s w < 2 ^ w ∧ ∀ i, 63 - i % 64 ≤ 63

/-- The operand, view and span checks of the extractor and of ARRAYRANK end the command with OutOfRange and no read
(R55, R121 to R123, R140, R221). The view check takes the address space from ADDR_BITS, where R54 and R55 write 2^64: the
model's reading (DEDUCED, log entry 12). -/
def Obligations.BadSpansAreOutOfRange : Prop :=
  ∀ s : State,
    (s.ctx.longViewOk = false ∨ s.ctx.longWords ≤ s.ctx.streamPos + s.ctx.arg0U / 64 →
      exec .getbit s = .next (s.failsWith .outOfRange 0 0)) ∧
    (s.ctx.arg1U < 1 ∨ 64 < s.ctx.arg1U ∨ s.ctx.longViewOk = false ∨
        s.ctx.longWords ≤ s.ctx.streamPos + (s.ctx.arg0U + s.ctx.arg1U - 1) / 64 →
      exec .getfield s = .next (s.failsWith .outOfRange 0 0)) ∧
    (s.ctx.arg1U < 1 ∨ 64 < s.ctx.arg1U ∨ 2 ^ 64 ≤ s.ctx.arg0U * s.ctx.arg1U ∨ s.ctx.longViewOk = false ∨
        s.ctx.longWords ≤ (s.ctx.arg0U * s.ctx.arg1U + s.ctx.arg1U - 1) / 64 →
      exec .getfieldx s = .next (s.failsWith .outOfRange 0 0)) ∧
    (s.ctx.longViewOk = false ∨ s.ctx.longWords < s.ctx.arg0U + s.ctx.arg1U →
      exec .arrayrank s = .next (s.failsWith .outOfRange 0 0))

/-! ### The binary-search comparator -/

/-- On strictly ascending elements ARRAYRANK completes with the number of elements at most the key, compared as signed
numbers, after at most 64 reads (R140, R142 (a), R262). -/
def Obligations.ArrayrankCountsSortedKeys : Prop :=
  ∀ s : State, s.ctx.longViewOk = true → s.ctx.arg0U + s.ctx.arg1U ≤ s.ctx.longWords →
    s.store.quiet s.ctx.winStart s.ctx.winLen →
    (∀ j k, j < k → k < s.ctx.arg1U →
      s64 (s.store.stableWord (s.ctx.longAddr (s.ctx.arg0U + j))) <
        s64 (s.store.stableWord (s.ctx.longAddr (s.ctx.arg0U + k)))) →
    ∃ n ≤ 64, exec .arrayrank s = .next (s.succeeds
      (zext64 ((List.range s.ctx.arg1U).countP fun j =>
        decide (s64 (s.store.stableWord (s.ctx.longAddr (s.ctx.arg0U + j))) ≤ s.ctx.arg2S))) n)

/-- On any elements, sorted or not, ARRAYRANK completes with a number at most `size` (R140, R142 (c)). -/
def Obligations.ArrayrankCompletesOnAnyData : Prop :=
  ∀ s : State, s.ctx.longViewOk = true → s.ctx.arg0U + s.ctx.arg1U ≤ s.ctx.longWords →
    s.store.quiet s.ctx.winStart s.ctx.winLen →
    ∃ v n, v ≤ s.ctx.arg1U ∧ exec .arrayrank s = .next (s.succeeds (zext64 v) n)

/-- On non-decreasing values `BSearchGT` gives the last index whose value is below `val`, or 0 (R141, R142 (b)). -/
def Obligations.BlockSearchFindsTheLastBelow : Prop :=
  ∀ (cnt : Nat) (f : Nat → Int) (val : Int) (st : Store) (k : Nat), 1 ≤ cnt →
    (∀ m m', m ≤ m' → m' < cnt → f m ≤ f m') →
    bsearchGT cnt (fun m => .pure (f m)) val st k =
      .ret ((List.range cnt).countP (fun m => decide (f m < val)) - 1) k

/-! ### Rank and select -/

/-- A negative index gives 0 for RANK1 and RANK0, and OutOfRange for SELECT1 and SELECT0, with no check of the window
or the dictionary and no read, in every state (R160, R162, R191). -/
def Obligations.NegativeQueriesReadNothing : Prop :=
  ∀ s : State, s.ctx.arg0S < 0 →
    exec .rank1 s = .next (s.succeeds 0 0) ∧ exec .rank0 s = .next (s.succeeds 0 0) ∧
    exec .select1 s = .next (s.failsWith .outOfRange 0 0) ∧ exec .select0 s = .next (s.failsWith .outOfRange 0 0)

/-- The checks of the dictionary commands (R56, R74, R161, R221, R222). Before anything else: a malformed view is
OutOfRange with no read; a header with bit 63 set, or index arrays that do not fit, is CorruptDictionary after the one
read of the header; an index at or beyond `n` is OutOfRange for RANK1 and RANK0 (R160, R162). Then, for every index below
`n` and whatever the other words are, the groups before the index's own counted as their codewords stand: a codeword that
reaches past the view, an offset at or beyond its table bound and a result beyond `i + 1` are CorruptDictionary (R222 (c),
(d), (e)), and where none holds the two commands succeed with the result. The view check takes the address space from
ADDR_BITS, where R54 and R56 write 2^64: the model's reading (DEDUCED, log entry 12). -/
def Obligations.DictionaryChecksComeFirst : Prop :=
  (∀ (i : Instr) (s : State), i ∈ dictionaryCommands → 0 ≤ s.ctx.arg0S →
    (s.ctx.dictViewOk = false → exec i s = .next (s.failsWith .outOfRange 0 0)) ∧
    (s.ctx.dictViewOk = true → s.store.quiet (s.ctx.dictAddr 0) 8 →
      (s64 (s.store.stableWord (s.ctx.dictAddr 0)) < 0 ∨
          s.ctx.dictWords < (headerOf (u64 (s.store.stableWord (s.ctx.dictAddr 0)))).body →
        exec i s = .next (s.failsWith .corruptDictionary 0 1)) ∧
      (0 ≤ s64 (s.store.stableWord (s.ctx.dictAddr 0)) →
        (headerOf (u64 (s.store.stableWord (s.ctx.dictAddr 0)))).body ≤ s.ctx.dictWords →
        s64 (s.store.stableWord (s.ctx.dictAddr 0)) ≤ s.ctx.arg0S → i = .rank1 ∨ i = .rank0 →
        exec i s = .next (s.failsWith .outOfRange 0 1)))) ∧
  ∀ (s : State) (n i pos cls w o r : Nat), HeaderOk s.ctx s.store n → s.rom.wellFormed = true → s.ctx.arg0S = i →
    i < n →
    pos = (scannedGroups s.rom (bodyBit s.ctx s.store n) (quarterPos s.ctx s.store n i) (i % qSpan / groupBits)).2 →
    cls = bitsValue (bodyBit s.ctx s.store n) pos 4 →
    w = s.rom.offsetBits cls → o = bitsValue (bodyBit s.ctx s.store n) (pos + 4) w →
    r = quarterRank s.ctx s.store n i
      + (scannedGroups s.rom (bodyBit s.ctx s.store n) (quarterPos s.ctx s.store n i) (i % qSpan / groupBits)).1
      + smallRank (s.rom.pattern cls o) (i % groupBits + 1) →
    (s.ctx.dictWords ≤ (headerOf n).body + (pos + 3 + w) / 64 → s.endsCorrupt .rank1 ∧ s.endsCorrupt .rank0) ∧
    ((headerOf n).body + (pos + 3 + w) / 64 < s.ctx.dictWords →
      (s.rom.entries cls ≤ o ∨ i + 1 < r → s.endsCorrupt .rank1 ∧ s.endsCorrupt .rank0) ∧
      (o < s.rom.entries cls → r ≤ i + 1 →
        ∃ k, exec .rank1 s = .next (s.succeeds (zext64 r) k) ∧ exec .rank0 s = .next (s.succeeds (zext64 (i + 1 - r)) k)))

/-- RANK0 ends exactly as RANK1 does on the same operand and store, error for error, and where they succeed on an index
`i >= 0` the two results add up to `i + 1` (R162). -/
def Obligations.Rank0ComplementsRank1 : Prop :=
  ∀ s t₁ t₀ : State, exec .rank1 s = .next t₁ → exec .rank0 s = .next t₀ →
    t₀.errcode = t₁.errcode ∧ t₀.errinfo = t₁.errinfo ∧ t₀.reads = t₁.reads ∧
    (t₁.errcode = none → 0 ≤ s.ctx.arg0S → t₀.result.toNat + t₁.result.toNat = s.ctx.arg0S.toNat + 1)

/-- On a conforming dictionary of the bit-vector `X`, RANK1 `i` completes with the number of set bits of `[0, i]`, for
every `i` in `[0, n)`, any ROM and PACK (R160, R163). -/
def Obligations.Rank1CountsSetBitsOfAConformingDictionary : Prop :=
  ∀ (s : State) (X : List Bool) (cws : List (Nat × Nat)) (i : Nat), Conforming s.ctx s.store X cws →
    i < X.length → s.ctx.arg0S = i → ∃ k, exec .rank1 s = .next (s.succeeds (zext64 (ones X 0 (i + 1))) k)

/-- On a conforming dictionary RANK0 `i` completes with the number of clear bits of `[0, i]` (R162, R163). -/
def Obligations.Rank0CountsClearBitsOfAConformingDictionary : Prop :=
  ∀ (s : State) (X : List Bool) (cws : List (Nat × Nat)) (i : Nat), Conforming s.ctx s.store X cws →
    i < X.length → s.ctx.arg0S = i → ∃ k, exec .rank0 s = .next (s.succeeds (zext64 (i + 1 - ones X 0 (i + 1))) k)

/-- On a conforming dictionary SELECT1 `k` completes with the position of the (k+1)-th set bit, for every `k` below the
number of set bits (R192, R194). -/
def Obligations.Select1FindsTheSetBitOfAConformingDictionary : Prop :=
  ∀ (s : State) (X : List Bool) (cws : List (Nat × Nat)) (k : Nat), Conforming s.ctx s.store X cws →
    k < ones X 0 X.length → s.ctx.arg0S = k →
    ∃ p n, X[p]? = some true ∧ ones X 0 p = k ∧ exec .select1 s = .next (s.succeeds (zext64 p) n)

/-- On a conforming dictionary SELECT0 `k` completes with the position of the (k+1)-th clear bit, for every `k` below
the number of clear bits (R193, R194). -/
def Obligations.Select0FindsTheClearBitOfAConformingDictionary : Prop :=
  ∀ (s : State) (X : List Bool) (cws : List (Nat × Nat)) (k : Nat), Conforming s.ctx s.store X cws →
    k < X.length - ones X 0 X.length → s.ctx.arg0S = k →
    ∃ p n, X[p]? = some false ∧ p - ones X 0 p = k ∧ exec .select0 s = .next (s.succeeds (zext64 p) n)

/-- On a conforming dictionary a `k` at or beyond the number of set, or clear, bits is OutOfRange (R191). -/
def Obligations.SelectRejectsKeysBeyondTheCount : Prop :=
  ∀ (s : State) (X : List Bool) (cws : List (Nat × Nat)), Conforming s.ctx s.store X cws →
    ((ones X 0 X.length : Int) ≤ s.ctx.arg0S → ∃ n, exec .select1 s = .next (s.failsWith .outOfRange 0 n)) ∧
    (((X.length - ones X 0 X.length : Nat) : Int) ≤ s.ctx.arg0S →
      ∃ n, exec .select0 s = .next (s.failsWith .outOfRange 0 n))

/-- Whatever the dictionary's words are, a RANK1 that succeeds on an index `i >= 0` gives at most `i + 1` (R160, R161). -/
def Obligations.Rank1NeverExceedsItsPrefix : Prop :=
  ∀ s t : State, exec .rank1 s = .next t → t.errcode = none → 0 ≤ s.ctx.arg0S →
    t.result.toNat ≤ s.ctx.arg0S.toNat + 1

/-- SELECT1 and SELECT0 after the range check, on any dictionary with a good header whose count admits `k` (R190, R222 (c),
(d), (f)). Every error is CorruptDictionary and every answer lies below `n`. Stage by stage, for the L3 block, the L12
block and the quarter that the searches and tests of R190 choose, whichever they are: it is an error when the L3 or the
L12 stage leaves `val < 1` (so when no block has fewer matching bits before it than `val`); when the quarter's 32 groups
hold fewer matching bits than `val`; when a group scanned, or the offset of the group found, reaches past the view; when
that offset is at or beyond its table bound; when the answer is at or beyond `n`. Where none holds, the command succeeds
with the position of the `val`-th matching bit. Of the bit stage, for every pattern: it is an error when the pattern lacks
that bit, or the answer is at or beyond `n`. -/
def Obligations.SelectChecksRaiseCorruptDictionary : Prop :=
  (∀ (one : Bool) (i : Instr) (s u : State) (n k : Nat) (bit : Nat → Bool),
    i = (if one then .select1 else .select0) → HeaderOk s.ctx s.store n → s.rom.wellFormed = true → 1 ≤ n →
    s.ctx.arg0S = k → exec .rank1 (s.withArg0 (BitVec.ofNat 64 (n - 1))) = .next u → u.errcode = none →
    (k : Int) < countOf one n u.result.toNat → bit = bodyBit s.ctx s.store n →
    (∀ t, exec i s = .next t → (t.errcode = none ∨ t.errcode = some .corruptDictionary) ∧
      (t.errcode = none → t.result.toNat < n)) ∧
    ((∀ m < (headerOf n).l3N, (k : Int) + 1 ≤
      countOf one (m * l3Span) (u64 (dictEntry s.ctx s.store ((headerOf n).rankL3At m)))) → s.endsCorrupt i) ∧
    ∀ (l3 lo cnt : Nat) (val₃ : Int),
      bsearchGT (headerOf n).l3N (fun m => .pure (countOf one (m * l3Span)
        (u64 (dictEntry s.ctx s.store ((headerOf n).rankL3At m))))) (k + 1) s.store 0 = .ret l3 0 →
      lo = l3 * l12PerL3 → cnt = min ((headerOf n).l12N - lo) l12PerL3 →
      val₃ = k + 1 - countOf one (l3 * l3Span) (u64 (dictEntry s.ctx s.store ((headerOf n).rankL3At l3))) →
      (val₃ < 1 → s.endsCorrupt i) ∧
      ((∀ m < cnt, val₃ ≤ countOf one (m * l12Span)
        (s.pack.rb (dictEntry s.ctx s.store ((headerOf n).rankL12At (lo + m))))) → s.endsCorrupt i) ∧
      ∀ (e : Nat) (rw pw : Word) (val₁₂ : Int) (x : Cursor),
        bsearchGT cnt (fun m => .pure (countOf one (m * l12Span)
          (s.pack.rb (dictEntry s.ctx s.store ((headerOf n).rankL12At (lo + m)))))) val₃ s.store 0 = .ret e 0 →
        rw = dictEntry s.ctx s.store ((headerOf n).rankL12At (lo + e)) →
        pw = dictEntry s.ctx s.store ((headerOf n).posL12At (lo + e)) →
        val₁₂ = val₃ - countOf one (e * l12Span) (s.pack.rb rw) →
        x = quarterStage s.pack n one rw pw [1, 2, 3] ⟨val₁₂,
          u64 (dictEntry s.ctx s.store ((headerOf n).posL3At l3)) + s.pack.pb pw, (lo + e) * l12Span⟩ →
        (val₁₂ < 1 → s.endsCorrupt i) ∧
        (countOf one qSpan (scannedGroups s.rom bit x.pos groupsPerQ).1 < x.val → s.endsCorrupt i) ∧
        ∀ g p cls w o : Nat, g < groupsPerQ →
          countOf one (groupBits * g) (scannedGroups s.rom bit x.pos g).1 < x.val →
          p = (scannedGroups s.rom bit x.pos g).2 → cls = bitsValue bit p 4 → w = s.rom.offsetBits cls →
          o = bitsValue bit (p + 4) w →
          (s.ctx.dictWords ≤ (headerOf n).body + (p + 3) / 64 → s.endsCorrupt i) ∧
          (x.val ≤ countOf one (groupBits * (g + 1)) (scannedGroups s.rom bit x.pos (g + 1)).1 →
            (s.ctx.dictWords ≤ (headerOf n).body + (p + 3 + w) / 64 → s.endsCorrupt i) ∧
            ((headerOf n).body + (p + 3 + w) / 64 < s.ctx.dictWords →
              (s.rom.entries cls ≤ o → s.endsCorrupt i) ∧
              (o < s.rom.entries cls → 1 ≤ val₃ → 1 ≤ val₁₂ → ∀ j < 16,
                (s.rom.pattern cls o).getLsbD (15 - j) = one →
                (((List.range j).countP fun b => (s.rom.pattern cls o).getLsbD (15 - b) == one : Nat) : Int) + 1 =
                  x.val - countOf one (groupBits * g) (scannedGroups s.rom bit x.pos g).1 →
                (n ≤ x.sel + groupBits * g + j → s.endsCorrupt i) ∧
                (x.sel + groupBits * g + j < n →
                  ∃ q, exec i s = .next (s.succeeds (zext64 (x.sel + groupBits * g + j)) q)))))) ∧
  ∀ (one : Bool) (h : Header) (p : Pattern) (x : Cursor) (st : Store) (k : Nat),
    ((((List.range 16).countP fun j => p.getLsbD (15 - j) == one : Nat) : Int) < x.val ∨
      (∃ j, j < 16 ∧ p.getLsbD (15 - j) = one ∧
        (((List.range j).countP fun j => p.getLsbD (15 - j) == one : Nat) : Int) + 1 = x.val ∧ h.n ≤ x.sel + j)) →
    bitStage h one p x st k = .err .corruptDictionary 0 k

/-! ### Host programs -/

/-- A line of a host program expands as R87 says: a command line, with no operand up to three, to its register writes in
ARG order, the CMD write, the poll loop on BUSY and the read of RESULT; `window`, `dict`, `seek` and `rewind` to their
register writes. -/
def Obligations.CommandLineExpansion : Prop :=
  ∀ (n : Nat) (i : Instr) (a b c : HostValue),
    (HostLine.command i []).expand n =
      [.wr .cmd (.imm (encode i)), .label (.poll n), .rd tempS .status, .bit1 tempS 0 (.poll n), .rd tempR .result] ∧
    (HostLine.command i [a]).expand n = .wr .arg0 a :: (HostLine.command i []).expand n ∧
    (HostLine.command i [a, b]).expand n = .wr .arg0 a :: .wr .arg1 b :: (HostLine.command i []).expand n ∧
    (HostLine.command i [a, b, c]).expand n =
      .wr .arg0 a :: .wr .arg1 b :: .wr .arg2 c :: (HostLine.command i []).expand n ∧
    (HostLine.window a b).expand n = [.wr .winStart a, .wr .winLen b] ∧
    (HostLine.dict a).expand n = [.wr .dictBase a] ∧ (HostLine.seek a).expand n = [.wr .streamPos a] ∧
    HostLine.rewind.expand n = [.wr .streamPos (.imm 0)]
end

