-- ==== Sys2Proof/Laws/State.lean ====
section
/-! SUPPORT. What each update of the state leaves in each field: one lemma per field per update, all by definition. -/

namespace Sys2Proof.Machine

/-! ### Completion with a value (R224): `State.completeOk` -/

@[simp] theorem State.completeOk_eng (s : State) (v : Word) :
    (s.completeOk v).eng = .idle := rfl
@[simp] theorem State.completeOk_snap (s : State) (v : Word) :
    (s.completeOk v).snap = s.snap := rfl
@[simp] theorem State.completeOk_wait (s : State) (v : Word) :
    (s.completeOk v).wait = s.wait := rfl
@[simp] theorem State.completeOk_done (s : State) (v : Word) :
    (s.completeOk v).done = true := rfl
@[simp] theorem State.completeOk_ovr (s : State) (v : Word) :
    (s.completeOk v).ovr = s.ovr := rfl
@[simp] theorem State.completeOk_errcode (s : State) (v : Word) :
    (s.completeOk v).errcode = none := rfl
@[simp] theorem State.completeOk_ie (s : State) (v : Word) :
    (s.completeOk v).ie = s.ie := rfl
@[simp] theorem State.completeOk_arg0 (s : State) (v : Word) :
    (s.completeOk v).arg0 = s.arg0 := rfl
@[simp] theorem State.completeOk_arg1 (s : State) (v : Word) :
    (s.completeOk v).arg1 = s.arg1 := rfl
@[simp] theorem State.completeOk_arg2 (s : State) (v : Word) :
    (s.completeOk v).arg2 = s.arg2 := rfl
@[simp] theorem State.completeOk_result (s : State) (v : Word) :
    (s.completeOk v).result = v := rfl
@[simp] theorem State.completeOk_errinfo (s : State) (v : Word) :
    (s.completeOk v).errinfo = 0 := rfl
@[simp] theorem State.completeOk_winStart (s : State) (v : Word) :
    (s.completeOk v).winStart = s.winStart := rfl
@[simp] theorem State.completeOk_winLen (s : State) (v : Word) :
    (s.completeOk v).winLen = s.winLen := rfl
@[simp] theorem State.completeOk_streamPos (s : State) (v : Word) :
    (s.completeOk v).streamPos = s.streamPos := rfl
@[simp] theorem State.completeOk_dictBase (s : State) (v : Word) :
    (s.completeOk v).dictBase = s.dictBase := rfl
@[simp] theorem State.completeOk_rom (s : State) (v : Word) :
    (s.completeOk v).rom = s.rom := rfl
@[simp] theorem State.completeOk_pack (s : State) (v : Word) :
    (s.completeOk v).pack = s.pack := rfl
@[simp] theorem State.completeOk_addrBits (s : State) (v : Word) :
    (s.completeOk v).addrBits = s.addrBits := rfl
@[simp] theorem State.completeOk_store (s : State) (v : Word) :
    (s.completeOk v).store = s.store := rfl
@[simp] theorem State.completeOk_inputs (s : State) (v : Word) :
    (s.completeOk v).inputs = s.inputs := rfl
@[simp] theorem State.completeOk_readData (s : State) (v : Word) :
    (s.completeOk v).readData = s.readData := rfl
@[simp] theorem State.completeOk_reads (s : State) (v : Word) :
    (s.completeOk v).reads = s.reads := rfl
@[simp] theorem State.completeOk_draws (s : State) (v : Word) :
    (s.completeOk v).draws = s.draws := rfl

/-! ### Completion with an error (R224): `State.completeError` -/

@[simp] theorem State.completeError_eng (s : State) (e : ErrorKind) (info : Word) :
    (s.completeError e info).eng = .idle := rfl
@[simp] theorem State.completeError_snap (s : State) (e : ErrorKind) (info : Word) :
    (s.completeError e info).snap = s.snap := rfl
@[simp] theorem State.completeError_wait (s : State) (e : ErrorKind) (info : Word) :
    (s.completeError e info).wait = s.wait := rfl
@[simp] theorem State.completeError_done (s : State) (e : ErrorKind) (info : Word) :
    (s.completeError e info).done = true := rfl
@[simp] theorem State.completeError_ovr (s : State) (e : ErrorKind) (info : Word) :
    (s.completeError e info).ovr = s.ovr := rfl
@[simp] theorem State.completeError_errcode (s : State) (e : ErrorKind) (info : Word) :
    (s.completeError e info).errcode = some e := rfl
@[simp] theorem State.completeError_ie (s : State) (e : ErrorKind) (info : Word) :
    (s.completeError e info).ie = s.ie := rfl
@[simp] theorem State.completeError_arg0 (s : State) (e : ErrorKind) (info : Word) :
    (s.completeError e info).arg0 = s.arg0 := rfl
@[simp] theorem State.completeError_arg1 (s : State) (e : ErrorKind) (info : Word) :
    (s.completeError e info).arg1 = s.arg1 := rfl
@[simp] theorem State.completeError_arg2 (s : State) (e : ErrorKind) (info : Word) :
    (s.completeError e info).arg2 = s.arg2 := rfl
@[simp] theorem State.completeError_result (s : State) (e : ErrorKind) (info : Word) :
    (s.completeError e info).result = 0 := rfl
@[simp] theorem State.completeError_errinfo (s : State) (e : ErrorKind) (info : Word) :
    (s.completeError e info).errinfo = info := rfl
@[simp] theorem State.completeError_winStart (s : State) (e : ErrorKind) (info : Word) :
    (s.completeError e info).winStart = s.winStart := rfl
@[simp] theorem State.completeError_winLen (s : State) (e : ErrorKind) (info : Word) :
    (s.completeError e info).winLen = s.winLen := rfl
@[simp] theorem State.completeError_streamPos (s : State) (e : ErrorKind) (info : Word) :
    (s.completeError e info).streamPos = s.streamPos := rfl
@[simp] theorem State.completeError_dictBase (s : State) (e : ErrorKind) (info : Word) :
    (s.completeError e info).dictBase = s.dictBase := rfl
@[simp] theorem State.completeError_rom (s : State) (e : ErrorKind) (info : Word) :
    (s.completeError e info).rom = s.rom := rfl
@[simp] theorem State.completeError_pack (s : State) (e : ErrorKind) (info : Word) :
    (s.completeError e info).pack = s.pack := rfl
@[simp] theorem State.completeError_addrBits (s : State) (e : ErrorKind) (info : Word) :
    (s.completeError e info).addrBits = s.addrBits := rfl
@[simp] theorem State.completeError_store (s : State) (e : ErrorKind) (info : Word) :
    (s.completeError e info).store = s.store := rfl
@[simp] theorem State.completeError_inputs (s : State) (e : ErrorKind) (info : Word) :
    (s.completeError e info).inputs = s.inputs := rfl
@[simp] theorem State.completeError_readData (s : State) (e : ErrorKind) (info : Word) :
    (s.completeError e info).readData = s.readData := rfl
@[simp] theorem State.completeError_reads (s : State) (e : ErrorKind) (info : Word) :
    (s.completeError e info).reads = s.reads := rfl
@[simp] theorem State.completeError_draws (s : State) (e : ErrorKind) (info : Word) :
    (s.completeError e info).draws = s.draws := rfl

/-! ### Completion with a value after `k` reads: `State.succeeds` -/

@[simp] theorem State.succeeds_eng (s : State) (v : Word) (k : Nat) :
    (s.succeeds v k).eng = .idle := rfl
@[simp] theorem State.succeeds_snap (s : State) (v : Word) (k : Nat) :
    (s.succeeds v k).snap = s.snap := rfl
@[simp] theorem State.succeeds_wait (s : State) (v : Word) (k : Nat) :
    (s.succeeds v k).wait = s.wait := rfl
@[simp] theorem State.succeeds_done (s : State) (v : Word) (k : Nat) :
    (s.succeeds v k).done = true := rfl
@[simp] theorem State.succeeds_ovr (s : State) (v : Word) (k : Nat) :
    (s.succeeds v k).ovr = s.ovr := rfl
@[simp] theorem State.succeeds_errcode (s : State) (v : Word) (k : Nat) :
    (s.succeeds v k).errcode = none := rfl
@[simp] theorem State.succeeds_ie (s : State) (v : Word) (k : Nat) :
    (s.succeeds v k).ie = s.ie := rfl
@[simp] theorem State.succeeds_arg0 (s : State) (v : Word) (k : Nat) :
    (s.succeeds v k).arg0 = s.arg0 := rfl
@[simp] theorem State.succeeds_arg1 (s : State) (v : Word) (k : Nat) :
    (s.succeeds v k).arg1 = s.arg1 := rfl
@[simp] theorem State.succeeds_arg2 (s : State) (v : Word) (k : Nat) :
    (s.succeeds v k).arg2 = s.arg2 := rfl
@[simp] theorem State.succeeds_result (s : State) (v : Word) (k : Nat) :
    (s.succeeds v k).result = v := rfl
@[simp] theorem State.succeeds_errinfo (s : State) (v : Word) (k : Nat) :
    (s.succeeds v k).errinfo = 0 := rfl
@[simp] theorem State.succeeds_winStart (s : State) (v : Word) (k : Nat) :
    (s.succeeds v k).winStart = s.winStart := rfl
@[simp] theorem State.succeeds_winLen (s : State) (v : Word) (k : Nat) :
    (s.succeeds v k).winLen = s.winLen := rfl
@[simp] theorem State.succeeds_streamPos (s : State) (v : Word) (k : Nat) :
    (s.succeeds v k).streamPos = s.streamPos := rfl
@[simp] theorem State.succeeds_dictBase (s : State) (v : Word) (k : Nat) :
    (s.succeeds v k).dictBase = s.dictBase := rfl
@[simp] theorem State.succeeds_rom (s : State) (v : Word) (k : Nat) :
    (s.succeeds v k).rom = s.rom := rfl
@[simp] theorem State.succeeds_pack (s : State) (v : Word) (k : Nat) :
    (s.succeeds v k).pack = s.pack := rfl
@[simp] theorem State.succeeds_addrBits (s : State) (v : Word) (k : Nat) :
    (s.succeeds v k).addrBits = s.addrBits := rfl
@[simp] theorem State.succeeds_store (s : State) (v : Word) (k : Nat) :
    (s.succeeds v k).store = s.store := rfl
@[simp] theorem State.succeeds_inputs (s : State) (v : Word) (k : Nat) :
    (s.succeeds v k).inputs = s.inputs := rfl
@[simp] theorem State.succeeds_readData (s : State) (v : Word) (k : Nat) :
    (s.succeeds v k).readData = s.readData := rfl
@[simp] theorem State.succeeds_reads (s : State) (v : Word) (k : Nat) :
    (s.succeeds v k).reads = s.reads + k := rfl
@[simp] theorem State.succeeds_draws (s : State) (v : Word) (k : Nat) :
    (s.succeeds v k).draws = s.draws := rfl

/-! ### Completion with an error after `k` reads: `State.failsWith` -/

@[simp] theorem State.failsWith_eng (s : State) (e : ErrorKind) (info : Word) (k : Nat) :
    (s.failsWith e info k).eng = .idle := rfl
@[simp] theorem State.failsWith_snap (s : State) (e : ErrorKind) (info : Word) (k : Nat) :
    (s.failsWith e info k).snap = s.snap := rfl
@[simp] theorem State.failsWith_wait (s : State) (e : ErrorKind) (info : Word) (k : Nat) :
    (s.failsWith e info k).wait = s.wait := rfl
@[simp] theorem State.failsWith_done (s : State) (e : ErrorKind) (info : Word) (k : Nat) :
    (s.failsWith e info k).done = true := rfl
@[simp] theorem State.failsWith_ovr (s : State) (e : ErrorKind) (info : Word) (k : Nat) :
    (s.failsWith e info k).ovr = s.ovr := rfl
@[simp] theorem State.failsWith_errcode (s : State) (e : ErrorKind) (info : Word) (k : Nat) :
    (s.failsWith e info k).errcode = some e := rfl
@[simp] theorem State.failsWith_ie (s : State) (e : ErrorKind) (info : Word) (k : Nat) :
    (s.failsWith e info k).ie = s.ie := rfl
@[simp] theorem State.failsWith_arg0 (s : State) (e : ErrorKind) (info : Word) (k : Nat) :
    (s.failsWith e info k).arg0 = s.arg0 := rfl
@[simp] theorem State.failsWith_arg1 (s : State) (e : ErrorKind) (info : Word) (k : Nat) :
    (s.failsWith e info k).arg1 = s.arg1 := rfl
@[simp] theorem State.failsWith_arg2 (s : State) (e : ErrorKind) (info : Word) (k : Nat) :
    (s.failsWith e info k).arg2 = s.arg2 := rfl
@[simp] theorem State.failsWith_result (s : State) (e : ErrorKind) (info : Word) (k : Nat) :
    (s.failsWith e info k).result = 0 := rfl
@[simp] theorem State.failsWith_errinfo (s : State) (e : ErrorKind) (info : Word) (k : Nat) :
    (s.failsWith e info k).errinfo = info := rfl
@[simp] theorem State.failsWith_winStart (s : State) (e : ErrorKind) (info : Word) (k : Nat) :
    (s.failsWith e info k).winStart = s.winStart := rfl
@[simp] theorem State.failsWith_winLen (s : State) (e : ErrorKind) (info : Word) (k : Nat) :
    (s.failsWith e info k).winLen = s.winLen := rfl
@[simp] theorem State.failsWith_streamPos (s : State) (e : ErrorKind) (info : Word) (k : Nat) :
    (s.failsWith e info k).streamPos = s.streamPos := rfl
@[simp] theorem State.failsWith_dictBase (s : State) (e : ErrorKind) (info : Word) (k : Nat) :
    (s.failsWith e info k).dictBase = s.dictBase := rfl
@[simp] theorem State.failsWith_rom (s : State) (e : ErrorKind) (info : Word) (k : Nat) :
    (s.failsWith e info k).rom = s.rom := rfl
@[simp] theorem State.failsWith_pack (s : State) (e : ErrorKind) (info : Word) (k : Nat) :
    (s.failsWith e info k).pack = s.pack := rfl
@[simp] theorem State.failsWith_addrBits (s : State) (e : ErrorKind) (info : Word) (k : Nat) :
    (s.failsWith e info k).addrBits = s.addrBits := rfl
@[simp] theorem State.failsWith_store (s : State) (e : ErrorKind) (info : Word) (k : Nat) :
    (s.failsWith e info k).store = s.store := rfl
@[simp] theorem State.failsWith_inputs (s : State) (e : ErrorKind) (info : Word) (k : Nat) :
    (s.failsWith e info k).inputs = s.inputs := rfl
@[simp] theorem State.failsWith_readData (s : State) (e : ErrorKind) (info : Word) (k : Nat) :
    (s.failsWith e info k).readData = s.readData := rfl
@[simp] theorem State.failsWith_reads (s : State) (e : ErrorKind) (info : Word) (k : Nat) :
    (s.failsWith e info k).reads = s.reads + k := rfl
@[simp] theorem State.failsWith_draws (s : State) (e : ErrorKind) (info : Word) (k : Nat) :
    (s.failsWith e info k).draws = s.draws := rfl

/-! ### Issue (R38): `State.issue` -/

@[simp] theorem State.issue_eng (s : State) (w : Word) (l : Nat) :
    (s.issue w l).eng = .busy := rfl
@[simp] theorem State.issue_snap (s : State) (w : Word) (l : Nat) :
    (s.issue w l).snap = s.snapshot w := rfl
@[simp] theorem State.issue_wait (s : State) (w : Word) (l : Nat) :
    (s.issue w l).wait = l := rfl
@[simp] theorem State.issue_done (s : State) (w : Word) (l : Nat) :
    (s.issue w l).done = false := rfl
@[simp] theorem State.issue_ovr (s : State) (w : Word) (l : Nat) :
    (s.issue w l).ovr = s.ovr := rfl
@[simp] theorem State.issue_errcode (s : State) (w : Word) (l : Nat) :
    (s.issue w l).errcode = none := rfl
@[simp] theorem State.issue_ie (s : State) (w : Word) (l : Nat) :
    (s.issue w l).ie = s.ie := rfl
@[simp] theorem State.issue_arg0 (s : State) (w : Word) (l : Nat) :
    (s.issue w l).arg0 = s.arg0 := rfl
@[simp] theorem State.issue_arg1 (s : State) (w : Word) (l : Nat) :
    (s.issue w l).arg1 = s.arg1 := rfl
@[simp] theorem State.issue_arg2 (s : State) (w : Word) (l : Nat) :
    (s.issue w l).arg2 = s.arg2 := rfl
@[simp] theorem State.issue_result (s : State) (w : Word) (l : Nat) :
    (s.issue w l).result = s.result := rfl
@[simp] theorem State.issue_errinfo (s : State) (w : Word) (l : Nat) :
    (s.issue w l).errinfo = 0 := rfl
@[simp] theorem State.issue_winStart (s : State) (w : Word) (l : Nat) :
    (s.issue w l).winStart = s.winStart := rfl
@[simp] theorem State.issue_winLen (s : State) (w : Word) (l : Nat) :
    (s.issue w l).winLen = s.winLen := rfl
@[simp] theorem State.issue_streamPos (s : State) (w : Word) (l : Nat) :
    (s.issue w l).streamPos = s.streamPos := rfl
@[simp] theorem State.issue_dictBase (s : State) (w : Word) (l : Nat) :
    (s.issue w l).dictBase = s.dictBase := rfl
@[simp] theorem State.issue_rom (s : State) (w : Word) (l : Nat) :
    (s.issue w l).rom = s.rom := rfl
@[simp] theorem State.issue_pack (s : State) (w : Word) (l : Nat) :
    (s.issue w l).pack = s.pack := rfl
@[simp] theorem State.issue_addrBits (s : State) (w : Word) (l : Nat) :
    (s.issue w l).addrBits = s.addrBits := rfl
@[simp] theorem State.issue_store (s : State) (w : Word) (l : Nat) :
    (s.issue w l).store = { s.store with changed := [] } := rfl
@[simp] theorem State.issue_inputs (s : State) (w : Word) (l : Nat) :
    (s.issue w l).inputs = s.inputs := rfl
@[simp] theorem State.issue_readData (s : State) (w : Word) (l : Nat) :
    (s.issue w l).readData = s.readData := rfl
@[simp] theorem State.issue_reads (s : State) (w : Word) (l : Nat) :
    (s.issue w l).reads = s.reads := rfl
@[simp] theorem State.issue_draws (s : State) (w : Word) (l : Nat) :
    (s.issue w l).draws = s.draws := rfl

/-! ### A host write of STATUS (R29): `State.ackStatus` -/

@[simp] theorem State.ackStatus_eng (s : State) (v : Word) :
    (s.ackStatus v).eng = s.eng := rfl
@[simp] theorem State.ackStatus_snap (s : State) (v : Word) :
    (s.ackStatus v).snap = s.snap := rfl
@[simp] theorem State.ackStatus_wait (s : State) (v : Word) :
    (s.ackStatus v).wait = s.wait := rfl
@[simp] theorem State.ackStatus_done (s : State) (v : Word) :
    (s.ackStatus v).done = (s.done && !v.getLsbD 1) := rfl
@[simp] theorem State.ackStatus_ovr (s : State) (v : Word) :
    (s.ackStatus v).ovr = (s.ovr && !v.getLsbD 3) := rfl
@[simp] theorem State.ackStatus_errcode (s : State) (v : Word) :
    (s.ackStatus v).errcode = s.errcode := rfl
@[simp] theorem State.ackStatus_ie (s : State) (v : Word) :
    (s.ackStatus v).ie = s.ie := rfl
@[simp] theorem State.ackStatus_arg0 (s : State) (v : Word) :
    (s.ackStatus v).arg0 = s.arg0 := rfl
@[simp] theorem State.ackStatus_arg1 (s : State) (v : Word) :
    (s.ackStatus v).arg1 = s.arg1 := rfl
@[simp] theorem State.ackStatus_arg2 (s : State) (v : Word) :
    (s.ackStatus v).arg2 = s.arg2 := rfl
@[simp] theorem State.ackStatus_result (s : State) (v : Word) :
    (s.ackStatus v).result = s.result := rfl
@[simp] theorem State.ackStatus_errinfo (s : State) (v : Word) :
    (s.ackStatus v).errinfo = s.errinfo := rfl
@[simp] theorem State.ackStatus_winStart (s : State) (v : Word) :
    (s.ackStatus v).winStart = s.winStart := rfl
@[simp] theorem State.ackStatus_winLen (s : State) (v : Word) :
    (s.ackStatus v).winLen = s.winLen := rfl
@[simp] theorem State.ackStatus_streamPos (s : State) (v : Word) :
    (s.ackStatus v).streamPos = s.streamPos := rfl
@[simp] theorem State.ackStatus_dictBase (s : State) (v : Word) :
    (s.ackStatus v).dictBase = s.dictBase := rfl
@[simp] theorem State.ackStatus_rom (s : State) (v : Word) :
    (s.ackStatus v).rom = s.rom := rfl
@[simp] theorem State.ackStatus_pack (s : State) (v : Word) :
    (s.ackStatus v).pack = s.pack := rfl
@[simp] theorem State.ackStatus_addrBits (s : State) (v : Word) :
    (s.ackStatus v).addrBits = s.addrBits := rfl
@[simp] theorem State.ackStatus_store (s : State) (v : Word) :
    (s.ackStatus v).store = s.store := rfl
@[simp] theorem State.ackStatus_inputs (s : State) (v : Word) :
    (s.ackStatus v).inputs = s.inputs := rfl
@[simp] theorem State.ackStatus_readData (s : State) (v : Word) :
    (s.ackStatus v).readData = s.readData := rfl
@[simp] theorem State.ackStatus_reads (s : State) (v : Word) :
    (s.ackStatus v).reads = s.reads := rfl
@[simp] theorem State.ackStatus_draws (s : State) (v : Word) :
    (s.ackStatus v).draws = s.draws := rfl

/-! ### Taking the step's input: `State.takeInput` -/

@[simp] theorem State.takeInput_eng (s : State) :
    (s.takeInput).eng = s.eng := rfl
@[simp] theorem State.takeInput_snap (s : State) :
    (s.takeInput).snap = s.snap := rfl
@[simp] theorem State.takeInput_wait (s : State) :
    (s.takeInput).wait = s.wait := rfl
@[simp] theorem State.takeInput_done (s : State) :
    (s.takeInput).done = s.done := rfl
@[simp] theorem State.takeInput_ovr (s : State) :
    (s.takeInput).ovr = s.ovr := rfl
@[simp] theorem State.takeInput_errcode (s : State) :
    (s.takeInput).errcode = s.errcode := rfl
@[simp] theorem State.takeInput_ie (s : State) :
    (s.takeInput).ie = s.ie := rfl
@[simp] theorem State.takeInput_arg0 (s : State) :
    (s.takeInput).arg0 = s.arg0 := rfl
@[simp] theorem State.takeInput_arg1 (s : State) :
    (s.takeInput).arg1 = s.arg1 := rfl
@[simp] theorem State.takeInput_arg2 (s : State) :
    (s.takeInput).arg2 = s.arg2 := rfl
@[simp] theorem State.takeInput_result (s : State) :
    (s.takeInput).result = s.result := rfl
@[simp] theorem State.takeInput_errinfo (s : State) :
    (s.takeInput).errinfo = s.errinfo := rfl
@[simp] theorem State.takeInput_winStart (s : State) :
    (s.takeInput).winStart = s.winStart := rfl
@[simp] theorem State.takeInput_winLen (s : State) :
    (s.takeInput).winLen = s.winLen := rfl
@[simp] theorem State.takeInput_streamPos (s : State) :
    (s.takeInput).streamPos = s.streamPos := rfl
@[simp] theorem State.takeInput_dictBase (s : State) :
    (s.takeInput).dictBase = s.dictBase := rfl
@[simp] theorem State.takeInput_rom (s : State) :
    (s.takeInput).rom = s.rom := rfl
@[simp] theorem State.takeInput_pack (s : State) :
    (s.takeInput).pack = s.pack := rfl
@[simp] theorem State.takeInput_addrBits (s : State) :
    (s.takeInput).addrBits = s.addrBits := rfl
@[simp] theorem State.takeInput_store (s : State) :
    (s.takeInput).store = s.store := rfl
@[simp] theorem State.takeInput_inputs (s : State) :
    (s.takeInput).inputs = s.inputs.tail := rfl
@[simp] theorem State.takeInput_readData (s : State) :
    (s.takeInput).readData = none := rfl
@[simp] theorem State.takeInput_reads (s : State) :
    (s.takeInput).reads = s.reads := rfl
@[simp] theorem State.takeInput_draws (s : State) :
    (s.takeInput).draws = s.draws := rfl

/-! ### A command issued and due: `State.loadCommand` -/

@[simp] theorem State.loadCommand_eng (s : State) (w : Word) :
    (s.loadCommand w).eng = .busy := rfl
@[simp] theorem State.loadCommand_snap (s : State) (w : Word) :
    (s.loadCommand w).snap = s.snapshot w := rfl
@[simp] theorem State.loadCommand_wait (s : State) (w : Word) :
    (s.loadCommand w).wait = 0 := rfl
@[simp] theorem State.loadCommand_done (s : State) (w : Word) :
    (s.loadCommand w).done = false := rfl
@[simp] theorem State.loadCommand_ovr (s : State) (w : Word) :
    (s.loadCommand w).ovr = s.ovr := rfl
@[simp] theorem State.loadCommand_errcode (s : State) (w : Word) :
    (s.loadCommand w).errcode = none := rfl
@[simp] theorem State.loadCommand_ie (s : State) (w : Word) :
    (s.loadCommand w).ie = s.ie := rfl
@[simp] theorem State.loadCommand_arg0 (s : State) (w : Word) :
    (s.loadCommand w).arg0 = s.arg0 := rfl
@[simp] theorem State.loadCommand_arg1 (s : State) (w : Word) :
    (s.loadCommand w).arg1 = s.arg1 := rfl
@[simp] theorem State.loadCommand_arg2 (s : State) (w : Word) :
    (s.loadCommand w).arg2 = s.arg2 := rfl
@[simp] theorem State.loadCommand_result (s : State) (w : Word) :
    (s.loadCommand w).result = s.result := rfl
@[simp] theorem State.loadCommand_errinfo (s : State) (w : Word) :
    (s.loadCommand w).errinfo = 0 := rfl
@[simp] theorem State.loadCommand_winStart (s : State) (w : Word) :
    (s.loadCommand w).winStart = s.winStart := rfl
@[simp] theorem State.loadCommand_winLen (s : State) (w : Word) :
    (s.loadCommand w).winLen = s.winLen := rfl
@[simp] theorem State.loadCommand_streamPos (s : State) (w : Word) :
    (s.loadCommand w).streamPos = s.streamPos := rfl
@[simp] theorem State.loadCommand_dictBase (s : State) (w : Word) :
    (s.loadCommand w).dictBase = s.dictBase := rfl
@[simp] theorem State.loadCommand_rom (s : State) (w : Word) :
    (s.loadCommand w).rom = s.rom := rfl
@[simp] theorem State.loadCommand_pack (s : State) (w : Word) :
    (s.loadCommand w).pack = s.pack := rfl
@[simp] theorem State.loadCommand_addrBits (s : State) (w : Word) :
    (s.loadCommand w).addrBits = s.addrBits := rfl
@[simp] theorem State.loadCommand_store (s : State) (w : Word) :
    (s.loadCommand w).store = { s.store with changed := [] } := rfl
@[simp] theorem State.loadCommand_inputs (s : State) (w : Word) :
    (s.loadCommand w).inputs = Input.idle :: s.inputs := rfl
@[simp] theorem State.loadCommand_readData (s : State) (w : Word) :
    (s.loadCommand w).readData = s.readData := rfl
@[simp] theorem State.loadCommand_reads (s : State) (w : Word) :
    (s.loadCommand w).reads = s.reads := rfl
@[simp] theorem State.loadCommand_draws (s : State) (w : Word) :
    (s.loadCommand w).draws = s.draws := rfl

/-! ### `rst` (R250): `State.resetBlock` -/

@[simp] theorem State.resetBlock_eng (s : State) :
    (s.resetBlock).eng = .idle := rfl
@[simp] theorem State.resetBlock_snap (s : State) :
    (s.resetBlock).snap = resetSnap s.draws := rfl
@[simp] theorem State.resetBlock_wait (s : State) :
    (s.resetBlock).wait = 0 := rfl
@[simp] theorem State.resetBlock_done (s : State) :
    (s.resetBlock).done = false := rfl
@[simp] theorem State.resetBlock_ovr (s : State) :
    (s.resetBlock).ovr = false := rfl
@[simp] theorem State.resetBlock_errcode (s : State) :
    (s.resetBlock).errcode = none := rfl
@[simp] theorem State.resetBlock_ie (s : State) :
    (s.resetBlock).ie = false := rfl
@[simp] theorem State.resetBlock_arg0 (s : State) :
    (s.resetBlock).arg0 = 0 := rfl
@[simp] theorem State.resetBlock_arg1 (s : State) :
    (s.resetBlock).arg1 = 0 := rfl
@[simp] theorem State.resetBlock_arg2 (s : State) :
    (s.resetBlock).arg2 = 0 := rfl
@[simp] theorem State.resetBlock_result (s : State) :
    (s.resetBlock).result = 0 := rfl
@[simp] theorem State.resetBlock_errinfo (s : State) :
    (s.resetBlock).errinfo = 0 := rfl
@[simp] theorem State.resetBlock_winStart (s : State) :
    (s.resetBlock).winStart = 0 := rfl
@[simp] theorem State.resetBlock_winLen (s : State) :
    (s.resetBlock).winLen = 0 := rfl
@[simp] theorem State.resetBlock_streamPos (s : State) :
    (s.resetBlock).streamPos = 0 := rfl
@[simp] theorem State.resetBlock_dictBase (s : State) :
    (s.resetBlock).dictBase = 0 := rfl
@[simp] theorem State.resetBlock_rom (s : State) :
    (s.resetBlock).rom = s.rom := rfl
@[simp] theorem State.resetBlock_pack (s : State) :
    (s.resetBlock).pack = s.pack := rfl
@[simp] theorem State.resetBlock_addrBits (s : State) :
    (s.resetBlock).addrBits = s.addrBits := rfl
@[simp] theorem State.resetBlock_store (s : State) :
    (s.resetBlock).store = s.store := rfl
@[simp] theorem State.resetBlock_inputs (s : State) :
    (s.resetBlock).inputs = s.inputs := rfl
@[simp] theorem State.resetBlock_readData (s : State) :
    (s.resetBlock).readData = none := rfl
@[simp] theorem State.resetBlock_reads (s : State) :
    (s.resetBlock).reads = s.reads := rfl
@[simp] theorem State.resetBlock_draws (s : State) :
    (s.resetBlock).draws = s.draws + 1 := rfl

end Sys2Proof.Machine
end

