-- ==== Sys2Proof/Laws/Engine.lean ====
section
/-! SUPPORT. The engine's computations: how `bind` runs, how a computation can end, and three properties every command's
parts have and `bind` carries along: a bound on reads, the addresses read, the errors raised. -/

namespace Sys2Proof.Machine

variable {α β γ : Type}

/-! ### Running -/

@[simp] theorem Engine.pure_run (v : α) (st : Store) (k : Nat) : Engine.pure v st k = .ret v k := rfl

@[simp] theorem Engine.raise_run (e : ErrorKind) (st : Store) (k : Nat) :
    (Engine.raise e : Engine α) st k = .err e 0 k := rfl

theorem Engine.bind_ret {m : Engine α} {f : α → Engine β} {st : Store} {k k' : Nat} {v : α}
    (h : m st k = .ret v k') : m.bind f st k = f v st k' := by
  simp [Engine.bind, h]

theorem Engine.bind_err {m : Engine α} {f : α → Engine β} {st : Store} {k k' : Nat} {e : ErrorKind} {i : Word}
    (h : m st k = .err e i k') : m.bind f st k = .err e i k' := by
  simp [Engine.bind, h]

@[simp] theorem Engine.pure_bind (v : α) (f : α → Engine β) : (Engine.pure v).bind f = f v := rfl

@[simp] theorem Engine.raise_bind (e : ErrorKind) (f : α → Engine β) :
    (Engine.raise e : Engine α).bind f = .raise e := rfl

theorem Engine.bind_assoc (m : Engine α) (f : α → Engine β) (g : β → Engine γ) :
    (m.bind f).bind g = m.bind fun a => (f a).bind g := by
  funext st k
  simp only [Engine.bind]
  cases m st k <;> rfl

/-- A sequence ends with a value exactly when both parts do. -/
theorem Engine.bind_eq_ret {m : Engine α} {f : α → Engine β} {st : Store} {k k' : Nat} {v : β} :
    m.bind f st k = .ret v k' ↔ ∃ a k₁, m st k = .ret a k₁ ∧ f a st k₁ = .ret v k' := by
  simp only [Engine.bind]
  cases m st k <;> simp

/-- A sequence ends with an error exactly when one of its parts does, the first first. -/
theorem Engine.bind_eq_err {m : Engine α} {f : α → Engine β} {st : Store} {k k' : Nat} {e : ErrorKind} {i : Word} :
    m.bind f st k = .err e i k' ↔
      m st k = .err e i k' ∨ ∃ a k₁, m st k = .ret a k₁ ∧ f a st k₁ = .err e i k' := by
  simp only [Engine.bind]
  cases m st k <;> simp

/-! ### One read -/

/-- What one read can do. -/
theorem memRead_run (a : Nat) (st : Store) (k : Nat) :
    memRead a st k =
      if st.fails a k then .err .storageIO (BitVec.ofNat 64 a) (k + 1) else .ret (st.word a k) (k + 1) := by
  simp only [memRead, Store.respond]
  cases st.fails a k <;> rfl

/-- Eight quiet bytes read as the stable word of their address. -/
theorem Store.word_of_quiet {st : Store} {a len x : Nat} (h : st.quiet a len) (h₁ : a ≤ x) (h₂ : x + 8 ≤ a + len)
    (k : Nat) : st.word x k = st.stableWord x := by
  have hb : ∀ t, t < 8 → st.byteAt (x + t) k t = st.stableByte (x + t) := fun t ht => by
    simp [Store.byteAt, (h (x + t) (by omega) (by omega)).1]
  simp only [Store.word, Store.stableWord, beWord, hb 0 (by omega), hb 1 (by omega), hb 2 (by omega),
    hb 3 (by omega), hb 4 (by omega), hb 5 (by omega), hb 6 (by omega), hb 7 (by omega)]

/-- A read inside a quiet range answers. -/
theorem memRead_of_quiet {st : Store} {a len x : Nat} (h : st.quiet a len) (h₁ : a ≤ x) (h₂ : x + 8 ≤ a + len)
    (k : Nat) : memRead x st k = .ret (st.stableWord x) (k + 1) := by
  rw [memRead_run, (h x h₁ (by omega)).2 k, Store.word_of_quiet h h₁ h₂ k]
  simp

/-! ### Reads -/

/-- The reads made when a computation has ended. -/
def Run.reads : Run α → Nat
  | .ret _ k => k
  | .err _ _ k => k

/-- The computation makes at most `b` reads. -/
def Engine.ReadsAtMost (m : Engine α) (b : Nat) : Prop :=
  ∀ st k, k ≤ (m st k).reads ∧ (m st k).reads ≤ k + b

theorem Engine.ReadsAtMost.mono {m : Engine α} {b b' : Nat} (h : m.ReadsAtMost b) (hb : b ≤ b') :
    m.ReadsAtMost b' := fun st k => ⟨(h st k).1, (h st k).2.trans (by omega)⟩

theorem Engine.ReadsAtMost.pure (v : α) : (Engine.pure v).ReadsAtMost 0 := fun _ _ => ⟨le_refl _, le_refl _⟩

theorem Engine.ReadsAtMost.raise (e : ErrorKind) : (Engine.raise e : Engine α).ReadsAtMost 0 :=
  fun _ _ => ⟨le_refl _, le_refl _⟩

theorem Engine.ReadsAtMost.bind {m : Engine α} {f : α → Engine β} {b b' : Nat} (h : m.ReadsAtMost b)
    (h' : ∀ a, (f a).ReadsAtMost b') : (m.bind f).ReadsAtMost (b + b') := fun st k => by
  have hm := h st k
  simp only [Engine.bind]
  cases hr : m st k with
  | ret a k₁ =>
    have hf := h' a st k₁
    simp only [hr, Run.reads] at hm ⊢
    exact ⟨hm.1.trans hf.1, hf.2.trans (by omega)⟩
  | err e i k₁ =>
    simp only [hr, Run.reads] at hm ⊢
    omega

theorem memRead_readsAtMost (a : Nat) : (memRead a).ReadsAtMost 1 := fun st k => by
  rw [memRead_run]
  split <;> simp [Run.reads]

/-! ### Addresses -/

/-- The computation reads only at addresses in `P`: two stores that answer alike there make no difference. -/
def Engine.ReadsOnly (m : Engine α) (P : Nat → Prop) : Prop :=
  ∀ st st' : Store, (∀ a, P a → ∀ k, st.respond a k = st'.respond a k) → ∀ k, m st k = m st' k

theorem Engine.ReadsOnly.pure (v : α) (P : Nat → Prop) : (Engine.pure v).ReadsOnly P := fun _ _ _ _ => rfl

theorem Engine.ReadsOnly.raise (e : ErrorKind) (P : Nat → Prop) : (Engine.raise e : Engine α).ReadsOnly P :=
  fun _ _ _ _ => rfl

theorem Engine.ReadsOnly.bind {m : Engine α} {f : α → Engine β} {P : Nat → Prop} (h : m.ReadsOnly P)
    (h' : ∀ a, (f a).ReadsOnly P) : (m.bind f).ReadsOnly P := fun st st' hs k => by
  simp only [Engine.bind, h st st' hs k]
  cases m st' k with
  | ret a k₁ => exact h' a st st' hs k₁
  | err e i k₁ => rfl

theorem memRead_readsOnly {a : Nat} {P : Nat → Prop} (h : P a) : (memRead a).ReadsOnly P := fun st st' hs k => by
  simp only [memRead, hs a h k]

/-! ### Reads in order -/

/-- The computation's reads are numbered on from `k`; each goes to an address fixed by the answers to those before it,
and ends the computation with StorageIO and its address where the store answers it with an error (R53, R223). A store
that answers alike to the end makes no difference. -/
def Engine.ReadsInOrder (m : Engine α) : Prop :=
  ∀ st k, k ≤ (m st k).reads ∧
    (∀ st' : Store, (∀ b j, j < (m st k).reads → st'.respond b j = st.respond b j) → m st' k = m st k) ∧
    ∀ j, k ≤ j → j < (m st k).reads → ∃ a, ∀ st' : Store, (∀ b i, i < j → st'.respond b i = st.respond b i) →
      st'.respond a j = .error → m st' k = .err .storageIO (BitVec.ofNat 64 a) (j + 1)

theorem Engine.ReadsInOrder.pure (v : α) : (Engine.pure v).ReadsInOrder :=
  fun _ _ => ⟨le_refl _, fun _ _ => rfl, fun _ h h' => absurd h (Nat.not_le.mpr h')⟩

theorem Engine.ReadsInOrder.raise (e : ErrorKind) : (Engine.raise e : Engine α).ReadsInOrder :=
  fun _ _ => ⟨le_refl _, fun _ _ => rfl, fun _ h h' => absurd h (Nat.not_le.mpr h')⟩

theorem memRead_readsInOrder (a : Nat) : (memRead a).ReadsInOrder := fun st k => by
  have hr : (memRead a st k).reads = k + 1 := by
    simp only [memRead]
    cases st.respond a k <;> rfl
  rw [hr]
  refine ⟨by omega, fun st' hs => by simp only [memRead, hs a k (by omega)], fun j hk hj => ⟨a, fun st' _ he => ?_⟩⟩
  obtain rfl : j = k := by omega
  simp only [memRead, he]

theorem Engine.ReadsInOrder.bind {m : Engine α} {f : α → Engine β} (h : m.ReadsInOrder)
    (h' : ∀ a, (f a).ReadsInOrder) : (m.bind f).ReadsInOrder := fun st k => by
  obtain ⟨hk, hs, hj⟩ := h st k
  cases hr : m st k with
  | err e i k₁ =>
    rw [Engine.bind_err hr]
    rw [hr] at hk hs hj
    exact ⟨hk, fun st' ha => Engine.bind_err (hs st' ha), fun j h1 h2 =>
      (hj j h1 h2).imp fun a ha st' h3 h4 => Engine.bind_err (ha st' h3 h4)⟩
  | ret v k₁ =>
    obtain ⟨fk, fs, fj⟩ := h' v st k₁
    rw [Engine.bind_ret hr]
    rw [hr] at hk hs hj
    refine ⟨hk.trans fk, fun st' ha => ?_, fun j h1 h2 => ?_⟩
    · rw [Engine.bind_ret (hs st' fun b j hb => ha b j (hb.trans_le fk))]
      exact fs st' ha
    · rcases Nat.lt_or_ge j k₁ with h3 | h3
      · exact (hj j h1 h3).imp fun a ha st' h4 h5 => Engine.bind_err (ha st' h4 h5)
      · refine (fj j h3 h2).imp fun a ha st' h4 h5 => ?_
        rw [Engine.bind_ret (hs st' fun b i hb => h4 b i (Nat.lt_of_lt_of_le hb h3))]
        exact ha st' h4 h5

/-! ### Errors -/

/-- The computation raises only errors in `es`, and records an address only with StorageIO (R221 to R223). -/
def Engine.RaisesOnly (m : Engine α) (es : List ErrorKind) : Prop :=
  ∀ st k e i k', m st k = .err e i k' → e ∈ es ∧ (e ≠ .storageIO → i = 0)

theorem Engine.RaisesOnly.mono {m : Engine α} {es es' : List ErrorKind} (h : m.RaisesOnly es)
    (hs : ∀ e ∈ es, e ∈ es') : m.RaisesOnly es' :=
  fun st k e i k' he => ⟨hs e (h st k e i k' he).1, (h st k e i k' he).2⟩

theorem Engine.RaisesOnly.pure (v : α) (es : List ErrorKind) : (Engine.pure v).RaisesOnly es := by
  intro st k e i k' h
  simp at h

theorem Engine.RaisesOnly.raise {e : ErrorKind} {es : List ErrorKind} (h : e ∈ es) :
    (Engine.raise e : Engine α).RaisesOnly es := by
  intro st k e' i k' he
  simp only [Engine.raise_run, Run.err.injEq] at he
  obtain ⟨rfl, rfl, rfl⟩ := he
  exact ⟨h, fun _ => rfl⟩

theorem Engine.RaisesOnly.bind {m : Engine α} {f : α → Engine β} {es : List ErrorKind} (h : m.RaisesOnly es)
    (h' : ∀ a, (f a).RaisesOnly es) : (m.bind f).RaisesOnly es := by
  intro st k e i k' he
  rcases Engine.bind_eq_err.mp he with he | ⟨a, k₁, _, he⟩
  · exact h st k e i k' he
  · exact h' a st k₁ e i k' he

theorem memRead_raisesOnly {es : List ErrorKind} (h : ErrorKind.storageIO ∈ es) (a : Nat) :
    (memRead a).RaisesOnly es := by
  intro st k e i k' he
  rw [memRead_run] at he
  split at he
  · simp only [Run.err.injEq] at he
    obtain ⟨rfl, rfl, rfl⟩ := he
    exact ⟨h, fun hn => absurd rfl hn⟩
  · simp at he

end Sys2Proof.Machine
end

