-- ==== Sys2Proof/Laws/Memory.lean ====
section
/-! SUPPORT. The backing store: read after write, and that every write keeps the canonical form. -/

namespace Sys2Proof.Machine

@[simp] theorem Memory.get?_nil (a : Nat) : Memory.get? [] a = none := rfl

/-- Read after write at one address, and every other address left alone. -/
theorem Memory.get?_set (m : Memory) (a x : Nat) (b : Byte) :
    (m.set a b).get? x = if x = a then some b else m.get? x := by
  induction m with
  | nil => simp [Memory.set, Memory.get?]
  | cons e m ih =>
    obtain ⟨y, c⟩ := e
    simp only [Memory.set]
    by_cases h1 : a < y
    · simp [h1, Memory.get?]
    · by_cases h2 : a = y
      · subst h2
        by_cases h3 : x = a <;> simp [Memory.get?, h3]
      · by_cases h3 : x = y
        · subst h3
          simp [h1, h2, Memory.get?, Ne.symm h2]
        · simp [h1, h2, Memory.get?, ih, h3]

theorem Memory.get?_set_same (m : Memory) (a : Nat) (b : Byte) : (m.set a b).get? a = some b := by
  simp [Memory.get?_set]

theorem Memory.get?_set_other (m : Memory) {a x : Nat} (b : Byte) (h : x ≠ a) :
    (m.set a b).get? x = m.get? x := by
  simp [Memory.get?_set, h]

/-- The addresses listed after a write: those before it, and the one written. -/
theorem Memory.mem_set {m : Memory} {a : Nat} {b : Byte} {x : Host.Cell} (h : x ∈ m.set a b) :
    x = (a, b) ∨ x ∈ m := by
  induction m with
  | nil => simpa [Memory.set] using h
  | cons e m ih =>
    obtain ⟨y, c⟩ := e
    simp only [Memory.set] at h
    split_ifs at h with h1 h2
    · simpa using h
    · rcases List.mem_cons.mp h with h | h
      · exact .inl h
      · exact .inr (List.mem_cons_of_mem _ h)
    · rcases List.mem_cons.mp h with h | h
      · exact .inr (h ▸ List.mem_cons_self)
      · exact (ih h).imp_right (List.mem_cons_of_mem _)

theorem Memory.pairwise_set {m : Memory} {a : Nat} {b : Byte} (h : m.Pairwise fun x y => x.1 < y.1) :
    (m.set a b).Pairwise fun x y => x.1 < y.1 := by
  induction m with
  | nil => simp [Memory.set]
  | cons e m ih =>
    obtain ⟨y, c⟩ := e
    obtain ⟨hy, hm⟩ := List.pairwise_cons.mp h
    simp only [Memory.set]
    split_ifs with h1 h2
    · refine List.pairwise_cons.mpr ⟨fun x hx => ?_, h⟩
      rcases List.mem_cons.mp hx with rfl | hx
      · exact h1
      · exact h1.trans (hy x hx)
    · exact List.pairwise_cons.mpr ⟨fun x hx => h2 ▸ hy x hx, hm⟩
    · refine List.pairwise_cons.mpr ⟨fun x hx => ?_, ih hm⟩
      rcases Memory.mem_set hx with rfl | hx
      · show y < a
        omega
      · exact hy x hx

/-- A write keeps the canonical form. -/
theorem Memory.wf_set {m : Memory} {a : Nat} (b : Byte) (h : m.wf) (ha : a < 2 ^ 64) : (m.set a b).wf := by
  refine ⟨Memory.pairwise_set h.1, fun x hx => ?_⟩
  rcases Memory.mem_set hx with rfl | hx
  · exact ha
  · exact h.2 x hx

theorem Memory.wf_nil : Memory.wf [] := ⟨List.Pairwise.nil, by simp⟩

@[simp] theorem Store.write_mem (st : Store) (f : Bool) (a : Word) (b : Byte) :
    (st.write f a b).mem = st.mem.set a.toNat b := rfl

@[simp] theorem Store.write_volatile (st : Store) (f : Bool) (a : Word) (b : Byte) :
    (st.write f a b).volatile = st.volatile := rfl

@[simp] theorem Store.write_failing (st : Store) (f : Bool) (a : Word) (b : Byte) :
    (st.write f a b).failing = st.failing := rfl

/-- A host store keeps the canonical form of the backing store. -/
theorem Store.write_wf {st : Store} (f : Bool) (a : Word) (b : Byte) (h : st.mem.wf) : (st.write f a b).mem.wf :=
  Memory.wf_set b h a.isLt

/-- A reset machine's backing store is canonical. -/
theorem Store.empty_wf : Store.empty.mem.wf := Memory.wf_nil

end Sys2Proof.Machine
end

