-- ==== Sys2Proof/Laws/Exec.lean ====
section
/-! SUPPORT. What `exec`, the host's acts and a step can do, each said once. -/

namespace Sys2Proof.Machine

/-! ### exec -/

/-- Every command runs to completion on the state's snapshot: `exec` is `runCommand` of what the command computes. -/
theorem exec_eq (i : Instr) (s : State) : exec i s = .next (s.runCommand (commandOf i)) := by
  cases i <;> rfl

theorem exec_next {i : Instr} {s t : State} : exec i s = .next t ↔ s.runCommand (commandOf i) = t := by
  rw [exec_eq, Host.Outcome.next.injEq]

theorem runCommand_ret {s : State} {m : Ctx → Engine Word} {v : Word} {k : Nat}
    (h : m s.ctx s.store s.reads = .ret v k) : s.runCommand m = { s.completeOk v with reads := k } := by
  simp [State.runCommand, h, State.complete]

theorem runCommand_err {s : State} {m : Ctx → Engine Word} {e : ErrorKind} {i : Word} {k : Nat}
    (h : m s.ctx s.store s.reads = .err e i k) : s.runCommand m = { s.completeError e i with reads := k } := by
  simp [State.runCommand, h, State.complete]

/-- What running a command can do (R224): one of the two completions, and nothing else. -/
theorem runCommand_cases (s : State) (m : Ctx → Engine Word) :
    (∃ v k, m s.ctx s.store s.reads = .ret v k ∧ s.runCommand m = { s.completeOk v with reads := k }) ∨
    (∃ e i k, m s.ctx s.store s.reads = .err e i k ∧ s.runCommand m = { s.completeError e i with reads := k }) := by
  cases h : m s.ctx s.store s.reads with
  | ret v k => exact .inl ⟨v, k, rfl, runCommand_ret h⟩
  | err e i k => exact .inr ⟨e, i, k, rfl, runCommand_err h⟩

/-! ### The host's acts -/

/-- What a host write can do to the registers and the engine. -/
theorem writeCmd_busy {s : State} (h : s.eng = .busy) (w : Word) : s.writeCmd w = { s with ovr := true } := by
  simp [State.writeCmd, h]

theorem writeCmd_idle {s : State} (h : s.eng = .idle) (w : Word) :
    s.writeCmd w = { s.issue w (issueLatency w s.draws) with draws := s.draws + 1 } := by
  simp [State.writeCmd, h]

/-- Decoding the offset of a register gives the register. -/
theorem regAt_regOffset (r : Reg) : regAt (regOffset r) = some r := by
  cases r <;> rfl

@[simp] theorem regAt_id : regAt 0#8 = some .id := rfl
@[simp] theorem regAt_cmd : regAt 8#8 = some .cmd := rfl
@[simp] theorem regAt_status : regAt 16#8 = some .status := rfl
@[simp] theorem regAt_ctrl : regAt 24#8 = some .ctrl := rfl
@[simp] theorem regAt_arg0 : regAt 32#8 = some .arg0 := rfl
@[simp] theorem regAt_arg1 : regAt 40#8 = some .arg1 := rfl
@[simp] theorem regAt_arg2 : regAt 48#8 = some .arg2 := rfl
@[simp] theorem regAt_result : regAt 56#8 = some .result := rfl
@[simp] theorem regAt_errinfo : regAt 64#8 = some .errinfo := rfl
@[simp] theorem regAt_winStart : regAt 72#8 = some .winStart := rfl
@[simp] theorem regAt_winLen : regAt 80#8 = some .winLen := rfl
@[simp] theorem regAt_streamPos : regAt 88#8 = some .streamPos := rfl
@[simp] theorem regAt_dictBase : regAt 96#8 = some .dictBase := rfl

theorem hostAccessWellFormed_iff {off : BitVec 8} {n : Nat} :
    hostAccessWellFormed off n = true ↔ n = 8 ∧ off.toNat % 8 = 0 := by
  simp [hostAccessWellFormed]

@[simp] theorem readOffset_regOffset (s : State) (r : Reg) : s.readOffset (regOffset r) = s.readReg r := by
  simp [State.readOffset, regAt_regOffset]

@[simp] theorem writeOffset_regOffset (s : State) (r : Reg) (v : Word) :
    s.writeOffset (regOffset r) v = s.writeReg v r := by
  simp [State.writeOffset, regAt_regOffset]

/-- A host write leaves the parameters, the read-only results and the port's queue alone. -/
theorem writeReg_frame (s : State) (v : Word) (r : Reg) :
    (s.writeReg v r).rom = s.rom ∧ (s.writeReg v r).pack = s.pack ∧ (s.writeReg v r).result = s.result ∧
    (s.writeReg v r).store.mem = s.store.mem ∧ (s.writeReg v r).inputs = s.inputs ∧
    (s.writeReg v r).readData = s.readData ∧ (s.writeReg v r).reads = s.reads ∧
    (s.writeReg v r).addrBits = s.addrBits := by
  cases h : s.eng <;> cases r <;> simp [State.writeReg, State.writeCmd, h]

/-- While a command is in flight, a host write does not touch what the command runs on (R26, R39). -/
theorem writeReg_busy_frame {s : State} (h : s.eng = .busy) (v : Word) (r : Reg) :
    (s.writeReg v r).eng = .busy ∧ (s.writeReg v r).snap = s.snap ∧ (s.writeReg v r).store = s.store ∧
    (s.writeReg v r).wait = s.wait ∧ (s.writeReg v r).ctx = s.ctx ∧ (s.writeReg v r).errcode = s.errcode ∧
    (s.writeReg v r).errinfo = s.errinfo := by
  cases r <;>
    simp [State.writeReg, State.writeCmd, State.ackStatus, State.ctx, h]

/-! ### One step -/

/-- What a step can do: its input is applied, or refused; then the engine advances if a command was in flight and was
not reset. -/
theorem cycle_cases (s : State) :
    (∃ t, s.takeInput.applyInput s.nextInput = .next t ∧ (s.busy = true ∧ s.nextInput ≠ .reset) ∧
      step s = t.advance) ∨
    (∃ t, s.takeInput.applyInput s.nextInput = .next t ∧ ¬(s.busy = true ∧ s.nextInput ≠ .reset) ∧
      step s = .next t) ∨
    (∃ r, s.takeInput.applyInput s.nextInput = .refused r ∧ step s = .refused r) := by
  simp only [step, State.cycle]
  cases h : s.takeInput.applyInput s.nextInput with
  | next t =>
    by_cases hb : s.busy = true ∧ s.nextInput ≠ .reset
    · exact .inl ⟨t, rfl, hb, by simp only [if_pos hb]⟩
    · exact .inr (.inl ⟨t, rfl, hb, by simp only [if_neg hb]⟩)
  | fault f => exact nomatch f
  | refused r => exact .inr (.inr ⟨r, rfl, rfl⟩)

theorem nextInput_cons {s : State} {e : Input} {rest : List Input} (h : s.inputs = e :: rest) : s.nextInput = e := by
  simp [State.nextInput, h]

theorem takeInput_cons {s : State} {e : Input} {rest : List Input} (h : s.inputs = e :: rest) :
    s.takeInput = { s with inputs := rest, readData := none } := by
  simp [State.takeInput, h]

/-- A step with nothing in flight is its input's effect. -/
theorem step_idle {s : State} (h : s.eng = .idle) : step s = s.takeInput.applyInput s.nextInput := by
  simp only [step, State.cycle]
  cases s.takeInput.applyInput s.nextInput with
  | next t => simp [State.busy, h]
  | fault f => rfl
  | refused r => rfl

/-- A step with a command in flight is its input's effect, then the engine's. -/
theorem step_busy {s t : State} (h : s.eng = .busy) (hr : s.nextInput ≠ .reset)
    (ht : s.takeInput.applyInput s.nextInput = .next t) : step s = t.advance := by
  simp [step, State.cycle, ht, State.busy, h, hr]

/-- No input but `rst` touches what the command in flight runs on, save its backing store (R26, R39). -/
theorem applyInput_busy_frame {s t : State} {e : Input} (h : s.eng = .busy) (hr : e ≠ .reset)
    (ht : s.applyInput e = .next t) :
    t.eng = .busy ∧ t.snap = s.snap ∧ t.wait = s.wait ∧ t.rom = s.rom ∧ t.pack = s.pack ∧ t.reads = s.reads ∧
    t.errcode = s.errcode ∧ t.errinfo = s.errinfo ∧ t.result = s.result ∧ t.inputs = s.inputs ∧
    t.addrBits = s.addrBits := by
  cases e with
  | reset => exact absurd rfl hr
  | write off n v =>
    simp only [State.applyInput] at ht
    split at ht
    · cases ht
      simp only [State.writeOffset]
      cases regAt off with
      | none => simp [h]
      | some r =>
        have hb := writeReg_busy_frame h v r
        have hf := writeReg_frame s v r
        exact ⟨hb.1, hb.2.1, hb.2.2.2.1, hf.1, hf.2.1, hf.2.2.2.2.2.2.1, hb.2.2.2.2.2.1, hb.2.2.2.2.2.2,
          hf.2.2.1, hf.2.2.2.2.1, hf.2.2.2.2.2.2.2⟩
    · cases ht
  | read off n =>
    simp only [State.applyInput] at ht
    split at ht
    · cases ht
      simp [h]
    · cases ht
  | store a b =>
    simp only [State.applyInput] at ht
    split at ht
    · cases ht
      simp [h]
    · cases ht
  | _ =>
    cases ht
    simp [h]

theorem busy_iff {s : State} : s.busy = true ↔ s.eng = .busy := by
  simp [State.busy]

/-- The engine's part of a step: wait one step less, run the decoded command, or complete with IllegalCommand. -/
theorem advance_cases (s : State) :
    (∃ w, s.wait = w + 1 ∧ s.advance = .next { s with wait := w }) ∨
    (∃ i, s.wait = 0 ∧ decode s.snap.cmd = .command i ∧ s.advance = exec i s) ∨
    (∃ y, s.wait = 0 ∧ decode s.snap.cmd = .illegal y ∧ s.advance = .next (s.completeError .illegalCommand 0)) := by
  simp only [State.advance, State.finishCommand]
  cases hw : s.wait with
  | succ w => exact .inl ⟨w, rfl, rfl⟩
  | zero =>
    cases hd : decode s.snap.cmd with
    | command i => exact .inr (.inl ⟨i, rfl, rfl, rfl⟩)
    | illegal y => exact .inr (.inr ⟨y, rfl, rfl, rfl⟩)

/-- A run whose first step goes on. -/
theorem core_run_next {s t : State} (h : step s = .next t) (k : Nat) :
    Sys2Proof.core.run (k + 1) s = Sys2Proof.core.run k t := by
  have h' : Sys2Proof.core.step s = .next t := h
  simp only [Host.Core.run, h']

/-- A run of no steps. -/
theorem core_run_zero (s : State) : Sys2Proof.core.run 0 s = .next s := rfl

/-- An idle input changes nothing. -/
@[simp] theorem applyInput_idle (s : State) : s.applyInput .idle = .next s := rfl

@[simp] theorem applyInput_reset (s : State) : s.applyInput .reset = .next s.resetBlock := rfl

theorem applyInput_write {s : State} {off : BitVec 8} {n : Nat} (h : hostAccessWellFormed off n = true) (v : Word) :
    s.applyInput (.write off n v) = .next (s.writeOffset off v) := by
  simp [State.applyInput, h]

theorem applyInput_store {s : State} {a : Word} (h : a.toNat < addrSpace s.addrBits) (b : Byte) :
    s.applyInput (.store a b) = .next { s with store := s.store.write s.busy a b } := by
  simp [State.applyInput, h]

theorem applyInput_read {s : State} {off : BitVec 8} {n : Nat} (h : hostAccessWellFormed off n = true) :
    s.applyInput (.read off n) = .next { s with readData := some (s.readOffset off) } := by
  simp [State.applyInput, h]

end Sys2Proof.Machine
end

