-- ==== Sys2Proof/Laws/PerInstr.lean ====
section
/-! SUPPORT. Facts about every command as syntax, made one constructor at a time. -/

namespace Sys2Proof.Laws.RoundTrip

/-- A command's word is legal, is its zero-extended OPCODE (R88), and decodes to the command (R84). -/
def Statement (i : Instr) : Prop :=
  i.wellFormed = true ∧ (encode i).toNat = (opcodeOf i).toNat ∧ decode (encode i) = .command i

theorem getbit : Statement .getbit := ⟨by decide, by decide, by decide⟩
theorem getfield : Statement .getfield := ⟨by decide, by decide, by decide⟩
theorem getfieldx : Statement .getfieldx := ⟨by decide, by decide, by decide⟩
theorem arrayrank : Statement .arrayrank := ⟨by decide, by decide, by decide⟩
theorem rank1 : Statement .rank1 := ⟨by decide, by decide, by decide⟩
theorem rank0 : Statement .rank0 := ⟨by decide, by decide, by decide⟩
theorem select1 : Statement .select1 := ⟨by decide, by decide, by decide⟩
theorem select0 : Statement .select0 := ⟨by decide, by decide, by decide⟩
theorem romOffsetbits : Statement .romOffsetbits := ⟨by decide, by decide, by decide⟩
theorem romDecode : Statement .romDecode := ⟨by decide, by decide, by decide⟩
theorem romSmallrank : Statement .romSmallrank := ⟨by decide, by decide, by decide⟩

end Sys2Proof.Laws.RoundTrip
end

