-- ==== Sys2Proof/Tests/Slice0.lean ====
section
/-! SUPPORT. Tests against spec/95_test_vectors.md and the encodings of spec/30_encoding.md, the smoke tests of
WellFormed, and for every statement with hypotheses a state and operands that meet them. -/

namespace Sys2Proof.Machine.Tests

/-! ### Helpers -/

/-- The eight bytes of a word, big-endian (R53). -/
def bytesOf (w : Word) : List Byte :=
  [w.extractLsb' 56 8, w.extractLsb' 48 8, w.extractLsb' 40 8, w.extractLsb' 32 8,
   w.extractLsb' 24 8, w.extractLsb' 16 8, w.extractLsb' 8 8, w.extractLsb' 0 8]

/-- Bytes at consecutive addresses. -/
def cellsFrom : Nat → List Byte → Memory
  | _, [] => []
  | a, b :: bs => (a, b) :: cellsFrom (a + 1) bs

/-- Words at consecutive addresses. -/
def memOf (base : Nat) (ws : List Word) : Memory := cellsFrom base (ws.flatMap bytesOf)

/-- A reset machine with the words in a window of their own at `base`. -/
def withWords (base : Nat) (ws : List Word) : State :=
  { State.reset with
    winStart := BitVec.ofNat 64 base
    winLen := BitVec.ofNat 64 (8 * ws.length)
    store := { Store.empty with mem := memOf base ws } }

/-- The operands written. -/
def args (s : State) (a b c : Word) : State := { s with arg0 := a, arg1 := b, arg2 := c }

/-- The command issued and due, as the engine holds it when it runs. -/
def due (s : State) (i : Instr) : State := s.issue (encode i) 0

/-- STATUS, RESULT and ERRINFO of a next state. -/
def report : Host.Outcome State Fault Refusal → Option (Word × Word × Word)
  | .next t => some (t.statusWord, t.result, t.errinfo)
  | .fault _ => none
  | .refused _ => none

/-- A command issued and run in one step. -/
def runOn (s : State) (i : Instr) : Option (Word × Word × Word) := report (step (s.loadCommand (encode i)))

/-- The n = 16 dictionary of 95_test_vectors.md section 1.1. -/
def dict16 : List Word := [0x10, 0, 0, 0xC00000, 0x1C00000, 0x3884000000000000]

/-- The n = 128 dictionary of section 1.3. -/
def dict128 : List Word := [0x80, 0, 0, 0x2000000, 0x7800000, 0x0000800138D80000]

/-- The two words of section 2.2. -/
def words2 : List Word := [0x0123456789ABCDEF, 0xFEDCBA9876543210]

/-- The five words of section 2.3. -/
def array5 : List Word := [10, 20, 30, 40, 50]

/-! ### Decoding (section 2.6): each word written out as RSV (56 bits) and OPCODE (8 bits), R80, R82 -/

theorem test_decode_getbit : decode ((0 : BitVec 56) ++ 0b00000001#8) = .command .getbit := by decide
theorem test_decode_getfield : decode ((0 : BitVec 56) ++ 0b00000010#8) = .command .getfield := by decide
theorem test_decode_getfieldx : decode ((0 : BitVec 56) ++ 0b00000011#8) = .command .getfieldx := by decide
theorem test_decode_arrayrank : decode ((0 : BitVec 56) ++ 0b00001000#8) = .command .arrayrank := by decide
theorem test_decode_rank1 : decode ((0 : BitVec 56) ++ 0b00010000#8) = .command .rank1 := by decide
theorem test_decode_rank0 : decode ((0 : BitVec 56) ++ 0b00010001#8) = .command .rank0 := by decide
theorem test_decode_select1 : decode ((0 : BitVec 56) ++ 0b00010010#8) = .command .select1 := by decide
theorem test_decode_select0 : decode ((0 : BitVec 56) ++ 0b00010011#8) = .command .select0 := by decide
theorem test_decode_romOffsetbits : decode ((0 : BitVec 56) ++ 0b00100000#8) = .command .romOffsetbits := by decide
theorem test_decode_romDecode : decode ((0 : BitVec 56) ++ 0b00100001#8) = .command .romDecode := by decide
theorem test_decode_romSmallrank : decode ((0 : BitVec 56) ++ 0b00100010#8) = .command .romSmallrank := by decide
theorem test_decode_illegal :
    [0x00, 0x04, 0x07, 0x09, 0x0F, 0x14, 0x1F, 0x23, 0xFF].all
      (fun n => decode (BitVec.ofNat 64 n) == .illegal .unassignedOpcode) = true := by decide
theorem test_decode_reserved :
    decode 0x0000000000000110 = .illegal .reservedBits ∧ decode 0x8000000000000012 = .illegal .reservedBits := by decide

/-! ### WellFormed: an ill-formed term for each check -/

theorem test_wf_word_reserved : wordWellFormed 0x110 = false := by decide
theorem test_wf_word_opcode : wordWellFormed 0x00 = false := by decide
theorem test_wf_instr : [Instr.getbit, .select0, .romSmallrank].all Instr.wellFormed = true := by decide
theorem test_wf_rom_short : Rom.wellFormed ⟨[]⟩ = false := by decide
theorem test_wf_rom_width : RomClass.wellFormed 1 ⟨17, .ascending⟩ = false := by decide
theorem test_wf_rom_narrow : RomClass.wellFormed 8 ⟨13, .ascending⟩ = false := by decide
theorem test_wf_rom_empty : RomClass.wellFormed 1 ⟨4, .listed []⟩ = false := by decide
theorem test_wf_rom_long : RomClass.wellFormed 1 ⟨0, .listed [1, 2]⟩ = false := by decide
theorem test_wf_rom_popcount : RomClass.wellFormed 1 ⟨4, .listed [3]⟩ = false := by decide
theorem test_wf_pack_outside : Pack.wellFormed { defaultPack with rankBase := ⟨64, 32⟩ } = false := by decide
theorem test_wf_pack_reversed : Pack.wellFormed { defaultPack with posDelta3 := ⟨1, 10⟩ } = false := by decide
theorem test_wf_access_width : hostAccessWellFormed 0x20 4 = false := by decide
theorem test_wf_access_offset : hostAccessWellFormed 0x24 8 = false := by decide
theorem test_wf_memory_order : ¬ Memory.wf [(3, 0), (3, 1)] := by decide
theorem test_wf_memory_range : ¬ Memory.wf [(2 ^ 64, 0)] := by decide

/-! ### One or two tests per command (expected values: the sections of 95_test_vectors.md named) -/

/-- Section 2.2: GETBIT 7 = 1. -/
theorem test_getbit_7 : runOn (args (withWords 0 words2) 7 0 0) .getbit = some (0x2, 1, 0) := by decide +kernel
/-- Section 2.2: GETBIT 128 is OutOfRange. -/
theorem test_getbit_128 : runOn (args (withWords 0 words2) 128 0 0) .getbit = some (0x106, 0, 0) := by decide +kernel
/-- Section 2.2, unaligned window: GETFIELD 60, 8 = 0xFF across the boundary. -/
theorem test_getfield_cross : runOn (args (withWords 3 words2) 60 8 0) .getfield = some (0x2, 0xFF, 0) := by
  decide +kernel
/-- Section 2.2: GETFIELD 1, 64. -/
theorem test_getfield_64 :
    runOn (args (withWords 0 words2) 1 64 0) .getfield = some (0x2, 0x02468ACF13579BDF, 0) := by decide +kernel
/-- Section 2.2: GETFIELDX 7, 9 = 0x1FE. -/
theorem test_getfieldx_7 : runOn (args (withWords 0 words2) 7 9 0) .getfieldx = some (0x2, 0x1FE, 0) := by
  decide +kernel
/-- Section 2.2: GETFIELDX 2^63, 2 is OutOfRange. -/
theorem test_getfieldx_product :
    runOn (args (withWords 0 words2) 0x8000000000000000 2 0) .getfieldx = some (0x106, 0, 0) := by decide +kernel
/-- Section 2.3: key 35 gives 3. -/
theorem test_arrayrank_35 : runOn (args (withWords 0 array5) 0 5 35) .arrayrank = some (0x2, 3, 0) := by
  decide +kernel
/-- Section 2.3: unsorted 50, 40, 30 with key 45 gives 3. -/
theorem test_arrayrank_unsorted : runOn (args (withWords 0 [50, 40, 30]) 0 3 45) .arrayrank = some (0x2, 3, 0) := by
  decide +kernel
/-- Section 1.1: RANK1 3 = 3. -/
theorem test_rank1_3 : runOn (args (withWords 0 dict16) 3 0 0) .rank1 = some (0x2, 3, 0) := by decide +kernel
/-- Section 1.3: RANK1 64 = 5. -/
theorem test_rank1_64 : runOn (args (withWords 0 dict128) 64 0 0) .rank1 = some (0x2, 5, 0) := by decide +kernel
/-- Section 1.1: RANK0 15 = 13. -/
theorem test_rank0_15 : runOn (args (withWords 0 dict16) 15 0 0) .rank0 = some (0x2, 13, 0) := by decide +kernel
/-- Section 2.5, last row: with DV(1) = 1, RANK0 3 = 0. -/
theorem test_rank0_lie : runOn (args (withWords 0 (dict16.set 1 1)) 3 0 0) .rank0 = some (0x2, 0, 0) := by
  decide +kernel
/-- Section 1.3: SELECT1 4 = 64. -/
theorem test_select1_4 : runOn (args (withWords 0 dict128) 4 0 0) .select1 = some (0x2, 64, 0) := by decide +kernel
/-- Section 2.5: with rankL3[0] = 1 SELECT1 0 is CorruptDictionary. -/
theorem test_select1_corrupt : runOn (args (withWords 0 (dict16.set 1 1)) 0 0 0) .select1 = some (0x206, 0, 0) := by
  decide +kernel
/-- Section 1.1: SELECT0 12 = 15. -/
theorem test_select0_12 : runOn (args (withWords 0 dict16) 12 0 0) .select0 = some (0x2, 15, 0) := by decide +kernel
/-- Section 1.3: SELECT0 120 is OutOfRange. -/
theorem test_select0_120 : runOn (args (withWords 0 dict128) 120 0 0) .select0 = some (0x106, 0, 0) := by decide +kernel
/-- Section 2.1: ROM_OFFSETBITS 8 = 14. -/
theorem test_romOffsetbits_8 : runOn (args State.reset 8 0 0) .romOffsetbits = some (0x2, 14, 0) := by decide +kernel
/-- Section 2.1: ROM_OFFSETBITS 17 is OutOfRange. -/
theorem test_romOffsetbits_17 : runOn (args State.reset 17 0 0) .romOffsetbits = some (0x106, 0, 0) := by decide +kernel
/-- Section 2.1: ROM_DECODE 8, 8463 = 0xA5A5. -/
theorem test_romDecode_8 : runOn (args State.reset 8 8463 0) .romDecode = some (0x2, 0xA5A5, 0) := by decide +kernel
/-- Section 2.1: ROM_DECODE 8, 12870 is OutOfRange. -/
theorem test_romDecode_end : runOn (args State.reset 8 12870 0) .romDecode = some (0x106, 0, 0) := by decide +kernel
/-- Section 2.1: ROM_SMALLRANK 0xB000, 3 = 2. -/
theorem test_romSmallrank_3 : runOn (args State.reset 0xB000 3 0) .romSmallrank = some (0x2, 2, 0) := by decide +kernel
/-- Section 2.1: ROM_SMALLRANK 0x10000, 0 is OutOfRange. -/
theorem test_romSmallrank_wide : runOn (args State.reset 0x10000 0 0) .romSmallrank = some (0x106, 0, 0) := by
  decide +kernel

/-! ### The host registers (section 2.7), and where the machine takes its next command -/

/-- Reset: ID, and STATUS 0 (section 2.7). -/
theorem test_reset_registers :
    State.reset.readOffset 0x00 = 0x53554343494E4354 ∧ State.reset.readOffset 0x10 = 0 ∧
      State.reset.readOffset 0x60 = 0 := by decide
/-- CTRL keeps bit 0 only (R30); STATUS W1C of bit 1 leaves OVR (R29). -/
theorem test_ctrl_status :
    (State.reset.writeOffset 0x18 0xFFFFFFFFFFFFFFFE).ie = false ∧
      (({ State.reset with done := true, ovr := true }).writeOffset 0x10 2).statusWord = 0x8 := by decide
/-- ROM_OFFSETBITS as the table numbers its word: opcode 0x20, 64 bits; a set reserved bit is refused. -/
theorem test_table_word :
    decodeTableWord 64 0x20 = some .romOffsetbits ∧ decodeTableWord 64 0x120 = none ∧ decodeTableWord 64 0 = none := by
  decide
/-- The first step after reset runs the word placed: ROM_OFFSETBITS of class 0 is 1 (R104). -/
theorem test_fetch_word : report (step (State.reset.withFetchWord 64 0x20)) = some (0x2, 1, 0) := by decide +kernel

/-! ### Witnesses: for every statement with hypotheses, states and operands that meet them -/

/-- A machine with words in its window, the operands written and the command issued and due. -/
def ready (base : Nat) (ws : List Word) (a b c : Word) (i : Instr) : State := due (args (withWords base ws) a b c) i

theorem ready_quiet (base : Nat) (ws : List Word) (a b c : Word) (i : Instr) (x len : Nat) :
    (ready base ws a b c i).store.quiet x len := fun _ _ _ => ⟨rfl, fun _ => rfl⟩

/-- GETBIT 7 in flight with time to go. -/
def inFlight : State := { ready 0 words2 7 0 0 .getbit with wait := 1 }

/-- A machine with some inputs pending. -/
def pending (s : State) (es : List Input) : State := { s with inputs := es }

theorem witness_StepRunsTheDecodedCommand :
    (∃ u, (ready 0 words2 7 0 0 .getbit).eng = .busy ∧ (ready 0 words2 7 0 0 .getbit).wait = 0 ∧
      (ready 0 words2 7 0 0 .getbit).nextInput ≠ .reset ∧
      (ready 0 words2 7 0 0 .getbit).takeInput.applyInput (ready 0 words2 7 0 0 .getbit).nextInput = .next u ∧
      decode (ready 0 words2 7 0 0 .getbit).snap.cmd = .command .getbit) ∧
    ∃ u, (State.reset.issue 0x110 0).eng = .busy ∧ (State.reset.issue 0x110 0).wait = 0 ∧
      (State.reset.issue 0x110 0).nextInput ≠ .reset ∧
      (State.reset.issue 0x110 0).takeInput.applyInput (State.reset.issue 0x110 0).nextInput = .next u ∧
      decode (State.reset.issue 0x110 0).snap.cmd = .illegal .reservedBits :=
  ⟨⟨_, rfl, rfl, by decide, rfl, by decide⟩, ⟨_, rfl, rfl, by decide, rfl, by decide⟩⟩

theorem witness_IssueTakesTheSnapshot :
    (pending State.reset [.write 0x08 8 0x20]).eng = .idle ∧
      (pending State.reset [.write 0x08 8 0x20]).inputs = .write 0x08 8 0x20 :: [] := ⟨rfl, rfl⟩

theorem witness_CmdWriteWhileBusyIsDropped :
    (pending inFlight [.write 0x08 8 0x20]).eng = .busy ∧ (pending inFlight [.write 0x08 8 0x20]).wait = 0 + 1 ∧
      (pending inFlight [.write 0x08 8 0x20]).inputs = .write 0x08 8 0x20 :: [] := ⟨rfl, rfl, rfl⟩

theorem witness_CompletionWinsOverSameStepWrites :
    (ready 0 words2 7 0 0 .getbit).eng = .busy ∧ (ready 0 words2 7 0 0 .getbit).wait = 0 := ⟨rfl, rfl⟩

theorem witness_IllegalCommandCompletesAtOnce :
    State.reset.eng = .idle ∧ (pending State.reset [.write 0x08 8 0x110]).inputs = [.write 0x08 8 0x110] ∧
      decode 0x110 = .illegal .reservedBits ∧ decode 0x23 = .illegal .unassignedOpcode := by decide

theorem witness_CommandInFlightCompletes :
    inFlight.eng = .busy ∧ inFlight.wait = 1 ∧ inFlight.inputs = [] := ⟨rfl, rfl, rfl⟩

theorem witness_IssuedCommandReachesItsCompletion :
    (pending State.reset [.write 0x08 8 (encode .rank1)]).eng = .idle ∧
      (pending State.reset [.write 0x08 8 (encode .rank1)]).inputs = [.write 0x08 8 (encode .rank1)] := ⟨rfl, rfl⟩

theorem witness_CommandsLeaveEverythingElse :
    (∃ t, exec .getbit (ready 0 words2 7 0 0 .getbit) = .next t) ∧ Reg.arg0 ≠ .result ∧ Reg.arg0 ≠ .errinfo ∧
      Reg.arg0 ≠ .status := ⟨⟨_, rfl⟩, by decide⟩

/-- Section 2.5's kind of cause for each error: GETBIT beyond the view, a corrupt header, a failing read; and OutOfRange
of a dictionary command by its index alone (section 1.1: RANK1 16, SELECT1 3, SELECT0 13). -/
theorem witness_CommandsRaiseOnlyTheirErrors :
    (∃ t, exec .getbit (ready 0 words2 128 0 0 .getbit) = .next t ∧ t.errcode = some .outOfRange) ∧
    (∃ t, exec .rank1 (ready 0 [0x8000000000000000] 0 0 0 .rank1) = .next t ∧ t.errcode = some .corruptDictionary) ∧
    (∃ t, exec .rank1 { ready 0 dict16 0 0 0 .rank1 with store := { Store.empty with failing := [⟨0, none⟩] } } = .next t ∧
      t.errcode = some .storageIO) ∧
    (∃ t, exec .rank1 (ready 0 dict16 16 0 0 .rank1) = .next t ∧ t.errcode = some .outOfRange ∧
      (ready 0 dict16 16 0 0 .rank1).ctx.dictViewOk = true) ∧
    (∃ t, exec .select1 (ready 0 dict16 3 0 0 .select1) = .next t ∧ t.errcode = some .outOfRange ∧
      (ready 0 dict16 3 0 0 .select1).ctx.dictViewOk = true) ∧
    ∃ t, exec .select0 (ready 0 dict16 13 0 0 .select0) = .next t ∧ t.errcode = some .outOfRange ∧
      (ready 0 dict16 13 0 0 .select0).ctx.dictViewOk = true :=
  ⟨⟨_, rfl, by decide +kernel⟩, ⟨_, rfl, by decide +kernel⟩, ⟨_, rfl, by decide +kernel⟩,
    ⟨_, rfl, by decide +kernel⟩, ⟨_, rfl, by decide +kernel⟩, ⟨_, rfl, by decide +kernel⟩⟩

/-- OutOfRange of every other command, by a cause of its own. -/
theorem witness_CommandsRaiseOnlyTheirErrors_outOfRange :
    [(Instr.getbit, ready 0 words2 128 0 0 .getbit), (.getfield, ready 0 words2 0 65 0 .getfield),
      (.getfieldx, ready 0 words2 2 64 0 .getfieldx), (.arrayrank, ready 0 array5 0 6 0 .arrayrank),
      (.romOffsetbits, due (args State.reset 17 0 0) .romOffsetbits),
      (.romDecode, due (args State.reset 0 2 0) .romDecode),
      (.romSmallrank, due (args State.reset 0 17 0) .romSmallrank),
      (.rank0, ready 0 dict16 16 0 0 .rank0)].all
      (fun x => (report (exec x.1 x.2)).map (·.1) == some 0x106) = true := by decide +kernel

/-- The clauses: the second read of a crossing GETFIELD fails, and a GETFIELD that succeeds after reads 0 and 1; a store
that answers read 0 alike and fails read 1; GETBIT's one read failing. -/
theorem witness_ErrinfoIsTheFailingAddress :
    (∃ t, exec .getfield { ready 3 words2 60 8 0 .getfield with
        store := { (withWords 3 words2).store with failing := [⟨11, none⟩] } } = .next t ∧
      t.errcode = some .storageIO ∧ t.errinfo = 11) ∧
    (∃ t, exec .getfield (ready 3 words2 60 8 0 .getfield) = .next t ∧ t.errcode ≠ some .storageIO ∧
      (ready 3 words2 60 8 0 .getfield).reads ≤ 1 ∧ 1 < t.reads) ∧
    (∀ b j, j < 1 → Store.respond { (withWords 3 words2).store with failing := [⟨11, some 1⟩] } b j =
      (ready 3 words2 60 8 0 .getfield).store.respond b j) ∧
    Store.respond { (withWords 3 words2).store with failing := [⟨11, some 1⟩] } 11 1 = .error ∧
    (ready 0 words2 7 0 0 .getbit).ctx.longViewOk = true ∧
      (ready 0 words2 7 0 0 .getbit).ctx.streamPos + (ready 0 words2 7 0 0 .getbit).ctx.arg0U / 64 <
        (ready 0 words2 7 0 0 .getbit).ctx.longWords ∧
      Store.respond { (withWords 0 words2).store with failing := [⟨0, none⟩] } 0 0 = .error := by
  refine ⟨⟨_, rfl, by decide +kernel⟩, ⟨_, rfl, by decide +kernel⟩, fun b j hj => ?_, by decide, by decide, by decide,
    by decide⟩
  obtain rfl : j = 0 := by omega
  have hf : Store.fails { (withWords 3 words2).store with failing := [⟨11, some 1⟩] } b 0 = false := by
    simp [Store.fails]
  simp only [Store.respond, hf]
  rfl

theorem witness_ReadsStayWithinTheBounds :
    ∃ t, exec .select1 (ready 0 dict128 0 0 0 .select1) = .next t ∧ t.reads ≠ 0 := ⟨_, rfl, by decide +kernel⟩

/-- Two stores that differ outside the 16 bytes of the window only. -/
theorem witness_CommandsReadOnlyTheWindow :
    (∀ a k, (ready 0 words2 7 0 0 .getbit).ctx.winStart ≤ a →
      a + 8 ≤ (ready 0 words2 7 0 0 .getbit).ctx.winStart + (ready 0 words2 7 0 0 .getbit).ctx.winLen →
      (ready 0 words2 7 0 0 .getbit).ctx.winStart + (ready 0 words2 7 0 0 .getbit).ctx.winLen ≤
        2 ^ min (ready 0 words2 7 0 0 .getbit).addrBits 64 →
      (ready 0 words2 7 0 0 .getbit).store.respond a k =
        ((ready 0 words2 7 0 0 .getbit).store.write false 16 0xAA).respond a k) ∧
    ∃ t, exec .getbit (ready 0 words2 7 0 0 .getbit) = .next t := by
  refine ⟨fun a k _ h _ => ?_, _, rfl⟩
  have ha : a ≤ 8 := by
    have : (ready 0 words2 7 0 0 .getbit).ctx.winStart + (ready 0 words2 7 0 0 .getbit).ctx.winLen = 16 := by decide
    omega
  interval_cases a <;> rfl

theorem witness_HostWritesDoNotReachTheCommandInFlight :
    (ready 0 words2 7 0 0 .getbit).eng = .busy ∧ ∃ t, exec .getbit (ready 0 words2 7 0 0 .getbit) = .next t :=
  ⟨rfl, _, rfl⟩

/-- The invariant holds of the reset state and of one with a command due, and both step. -/
theorem witness_EveryStepKeepsTheInvariant :
    (State.reset.Inv ∧ ∃ t, step State.reset = .next t) ∧
    ((ready 0 words2 7 0 0 .getbit).Inv ∧ ∃ t, step (ready 0 words2 7 0 0 .getbit) = .next t) :=
  ⟨⟨⟨by decide, by decide, by decide, by decide, by decide, by decide, by decide⟩, _, rfl⟩,
    ⟨⟨by decide, by decide, by decide, by decide +kernel, by decide +kernel, by decide, by decide⟩, _, rfl⟩⟩

theorem witness_RomAndPackNeverChange : ∃ t, step (ready 0 words2 7 0 0 .getbit) = .next t := ⟨_, rfl⟩

/-- Both clauses: no store, and stores at the two ends of the address space. -/
theorem witness_OnlyHostStoresChangeTheBackingStore :
    (∃ t, step State.reset = .next t ∧ ∀ a b, State.reset.nextInput ≠ .store a b) ∧
    (∃ t, step (pending State.reset [.store 0 1]) = .next t ∧
      (pending State.reset [.store 0 1]).nextInput = .store 0 1) ∧
    ∃ t, step (pending State.reset [.store 0xFFFFFFFFFFFFFFFF 1]) = .next t ∧
      (pending State.reset [.store 0xFFFFFFFFFFFFFFFF 1]).nextInput = .store 0xFFFFFFFFFFFFFFFF 1 :=
  ⟨⟨_, rfl, fun _ _ h => nomatch h⟩, ⟨_, rfl, rfl⟩, ⟨_, rfl, rfl⟩⟩

theorem witness_OnlyTheHostWritesOperandRegisters :
    (∃ t, step (ready 0 words2 7 0 0 .getbit) = .next t) ∧ (ready 0 words2 7 0 0 .getbit).nextInput ≠ .reset ∧
      Reg.arg0 ∈ [Reg.ctrl, .arg0, .arg1, .arg2, .winStart, .winLen, .streamPos, .dictBase] ∧
      ∀ v, (ready 0 words2 7 0 0 .getbit).nextInput ≠ .write (regOffset .arg0) 8 v :=
  ⟨⟨_, rfl⟩, by decide, by decide, fun _ h => nomatch h⟩

/-- Each event: a CMD write while BUSY, a STATUS write, `rst`, nothing; a completion that falls due; an issue; a host
store to an idle block. -/
theorem witness_FlagsAndResultsChangeOnlyByTheirEvents :
    (∃ t, step (pending inFlight [.write 0x08 8 0]) = .next t ∧ t.ovr = true ∧
      (pending inFlight [.write 0x08 8 0]).noCompletionDue) ∧
    (∃ t, step (pending { State.reset with ovr := true } [.write 0x10 8 8]) = .next t ∧ t.ovr = false) ∧
    (∃ t, step (pending { State.reset with ovr := true } [.reset]) = .next t ∧ t.ovr = false) ∧
    (∃ t, step { State.reset with ovr := true } = .next t ∧ t.ovr = true) ∧
    (∃ t, step (ready 0 words2 7 0 0 .getbit) = .next t ∧ (ready 0 words2 7 0 0 .getbit).wait = 0 ∧
      (ready 0 words2 7 0 0 .getbit).eng = .busy) ∧
    (∃ t, step (pending State.reset [.write 0x08 8 0x20]) = .next t ∧ State.reset.eng = .idle) ∧
    ∃ t, step (pending State.reset [.store 0 1]) = .next t ∧ (pending State.reset [.store 0 1]).noCompletionDue :=
  ⟨⟨_, rfl, rfl, .inr (by decide)⟩, ⟨_, rfl, rfl⟩, ⟨_, rfl, rfl⟩, ⟨_, rfl, rfl⟩, ⟨_, rfl, rfl, rfl⟩, ⟨_, rfl, rfl⟩,
    ⟨_, rfl, .inl rfl⟩⟩

theorem witness_RegisterReadsHaveNoSideEffect : (0x00#8).toNat % 8 = 0 ∧ (0xF8#8).toNat % 8 = 0 := by decide

theorem witness_UndefinedHostAccessIsRefused :
    ¬(4 = 8 ∧ (0x20#8).toNat % 8 = 0) ∧ ¬(8 = 8 ∧ (0x24#8).toNat % 8 = 0) ∧ (8 = 8 ∧ (0xF8#8).toNat % 8 = 0) := by
  decide

theorem witness_ReservedOffsetsReadZero : 0x68 ≤ (0x68#8).toNat ∧ 0x68 ≤ (0xF8#8).toNat := by decide

/-- Idle, busy with time to go, and in the step of a completion. -/
theorem witness_RegistersReadBackWhatIsWritten :
    ((pending State.reset [.write 0x48 8 5]).noCompletionDue ∧ Reg.winStart ≠ .status ∧
      (pending State.reset [.write 0x48 8 5]).inputs = .write (regOffset .winStart) 8 5 :: [] ∧
      ∃ t, step (pending State.reset [.write 0x48 8 5]) = .next t) ∧
    ((pending inFlight [.write 0x08 8 5]).noCompletionDue ∧ Reg.cmd ≠ .status ∧
      (pending inFlight [.write 0x08 8 5]).inputs = .write (regOffset .cmd) 8 5 :: [] ∧
      ∃ t, step (pending inFlight [.write 0x08 8 5]) = .next t) ∧
    (Reg.ctrl ∉ [Reg.result, .errinfo] ∧ Reg.arg0 ∉ [Reg.result, .errinfo, .status] ∧
      (pending (ready 0 words2 7 0 0 .getbit) [.write 0x18 8 1]).wait = 0 ∧
      (pending (ready 0 words2 7 0 0 .getbit) [.write 0x18 8 1]).inputs = .write (regOffset .ctrl) 8 1 :: [] ∧
      ∃ t, step (pending (ready 0 words2 7 0 0 .getbit) [.write 0x18 8 1]) = .next t ∧ t.done = true) :=
  ⟨⟨.inl rfl, by decide, rfl, _, rfl⟩, ⟨.inr (by decide), by decide, rfl, _, rfl⟩,
    by decide, by decide, rfl, rfl, _, rfl, rfl⟩

/-- Idle, and busy with time to go. -/
theorem witness_StatusWriteClearsOnlyDoneAndOvr :
    ((pending { State.reset with done := true } [.write 0x10 8 2]).noCompletionDue ∧
      (pending { State.reset with done := true } [.write 0x10 8 2]).inputs = .write 0x10 8 2 :: []) ∧
    (pending inFlight [.write 0x10 8 8]).noCompletionDue ∧ (pending inFlight [.write 0x10 8 8]).eng = .busy ∧
      (pending inFlight [.write 0x10 8 8]).inputs = .write 0x10 8 8 :: [] :=
  ⟨⟨.inl rfl, rfl⟩, .inr (by decide), rfl, rfl⟩

/-- The second clause by an illegal word. -/
theorem witness_InterruptFollowsCompletion :
    (∃ t, exec .getbit (ready 0 words2 7 0 0 .getbit) = .next t) ∧
      (∃ t, (State.reset.issue 0x110 0).finishCommand = .next t ∧ t.errcode = some .illegalCommand) ∧
      (2 : Word).getLsbD 1 = true ∧ State.reset.eng = .idle ∧ inFlight.eng = .busy :=
  ⟨⟨_, rfl⟩, ⟨_, rfl, rfl⟩, by decide, rfl, rfl⟩

theorem witness_ResetAbandonsTheCommandInFlight :
    (pending inFlight [.reset]).inputs = .reset :: [] ∧ inFlight.eng = .busy := ⟨rfl, rfl⟩

/-- With time to go, and in the step of the completion. -/
theorem witness_ChangedBytesReadAsArbitrary :
    ((pending inFlight [.store 3 0xFF]).eng = .busy ∧ (pending inFlight [.store 3 0xFF]).wait ≠ 0 ∧
      (pending inFlight [.store 3 0xFF]).nextInput = .store 3 0xFF ∧
      ∃ t, step (pending inFlight [.store 3 0xFF]) = .next t) ∧
    (pending (ready 0 words2 7 0 0 .getbit) [.store 3 0xFF]).eng = .busy ∧
      (pending (ready 0 words2 7 0 0 .getbit) [.store 3 0xFF]).wait = 0 ∧
      decode (pending (ready 0 words2 7 0 0 .getbit) [.store 3 0xFF]).snap.cmd = .command .getbit ∧
      (pending (ready 0 words2 7 0 0 .getbit) [.store 3 0xFF]).nextInput = .store 3 0xFF ∧
      ∃ t, step (pending (ready 0 words2 7 0 0 .getbit) [.store 3 0xFF]) = .next t :=
  ⟨⟨rfl, by decide, rfl, _, rfl⟩, rfl, rfl, by decide, rfl, _, rfl⟩

/-! The classes, offsets, patterns and lengths at the ends of their ranges. -/

theorem witness_RomOffsetbitsReturnsTheWidth :
    (due (args State.reset 16 0 0) .romOffsetbits).ctx.arg0U ≤ 16 ∧
      16 < (due (args State.reset 17 0 0) .romOffsetbits).ctx.arg0U := by decide

theorem witness_RomDecodeReturnsThePattern :
    ((due (args State.reset 8 12869 0) .romDecode).ctx.arg0U ≤ 16 ∧
      (due (args State.reset 8 12869 0) .romDecode).ctx.arg1U <
        (due (args State.reset 8 12869 0) .romDecode).rom.entries 8) ∧
    16 < (due (args State.reset 17 0 0) .romDecode).ctx.arg0U ∧
      (due (args State.reset 8 12870 0) .romDecode).rom.entries 8 ≤
        (due (args State.reset 8 12870 0) .romDecode).ctx.arg1U := by decide

theorem witness_RomSmallrankReturnsThePrefixRank :
    ((due (args State.reset 0xFFFF 16 0) .romSmallrank).ctx.arg0U ≤ 0xFFFF ∧
      (due (args State.reset 0xFFFF 16 0) .romSmallrank).ctx.arg1U ≤ 16) ∧
    0xFFFF < (due (args State.reset 0x10000 0 0) .romSmallrank).ctx.arg0U ∧
      16 < (due (args State.reset 0 17 0) .romSmallrank).ctx.arg1U := by decide

theorem witness_SmallRankCountsThePrefix : smallRank 0xB000 16 = 3 ∧ 16 ≤ 16 ∧ smallRank 0xB000 0 = 0 := by decide

theorem witness_AscendingTableHoldsTheNthPattern :
    (1 ≤ 1 ∧ 1 ≤ 16 ∧ 15 < Nat.choose 16 1 ∧ defaultRom.pattern 1 15 = 0x8000) ∧
      1 ≤ 16 ∧ 16 ≤ 16 ∧ 0 < Nat.choose 16 16 ∧ defaultRom.pattern 16 0 = 0xFFFF := by decide

/-- The last bit of the view. -/
theorem witness_GetbitReturnsTheStreamBit :
    (ready 0 words2 127 0 0 .getbit).ctx.longViewOk = true ∧
      (ready 0 words2 127 0 0 .getbit).ctx.streamPos + (ready 0 words2 127 0 0 .getbit).ctx.arg0U / 64 <
        (ready 0 words2 127 0 0 .getbit).ctx.longWords ∧
      (ready 0 words2 127 0 0 .getbit).store.quiet (ready 0 words2 127 0 0 .getbit).ctx.winStart
        (ready 0 words2 127 0 0 .getbit).ctx.winLen := ⟨by decide, by decide, ready_quiet _ _ _ _ _ _ _ _⟩

/-- A field of 64 bits that ends with the view's last bit, and one that crosses. -/
theorem witness_GetfieldReturnsTheStreamField :
    ((ready 0 words2 64 64 0 .getfield).ctx.longViewOk = true ∧ (ready 0 words2 64 64 0 .getfield).ctx.arg1U = 64 ∧
      (ready 0 words2 64 64 0 .getfield).ctx.streamPos + (64 + 64 - 1) / 64 <
        (ready 0 words2 64 64 0 .getfield).ctx.longWords) ∧
    (ready 0 words2 63 2 0 .getfield).ctx.longViewOk = true ∧
      (ready 0 words2 63 2 0 .getfield).ctx.streamPos + (63 + 2 - 1) / 64 <
        (ready 0 words2 63 2 0 .getfield).ctx.longWords ∧
      (ready 0 words2 63 2 0 .getfield).store.quiet (ready 0 words2 63 2 0 .getfield).ctx.winStart
        (ready 0 words2 63 2 0 .getfield).ctx.winLen :=
  ⟨by decide, by decide, by decide, ready_quiet _ _ _ _ _ _ _ _⟩

theorem witness_GetfieldxReturnsThePackedElement :
    (1 ≤ (ready 0 words2 1 64 0 .getfieldx).ctx.arg1U ∧ (ready 0 words2 1 64 0 .getfieldx).ctx.arg1U ≤ 64 ∧
      (ready 0 words2 1 64 0 .getfieldx).ctx.arg0U * (ready 0 words2 1 64 0 .getfieldx).ctx.arg1U < 2 ^ 64 ∧
      (ready 0 words2 1 64 0 .getfieldx).ctx.longViewOk = true ∧
      (1 * 64 + 64 - 1) / 64 < (ready 0 words2 1 64 0 .getfieldx).ctx.longWords) ∧
    (ready 0 words2 1 64 0 .getfieldx).store.quiet (ready 0 words2 1 64 0 .getfieldx).ctx.winStart
      (ready 0 words2 1 64 0 .getfieldx).ctx.winLen := ⟨by decide, ready_quiet _ _ _ _ _ _ _ _⟩

theorem witness_GetfieldWidthOneAgreesWithGetbit : (ready 0 words2 7 1 0 .getfield).ctx.arg1U = 1 := by decide

theorem witness_FieldIsHighOrLow :
    (63 ≤ 63 ∧ 1 ≤ 64 ∧ 64 ≤ 64 ∧ 64 < 63 + 64) ∧ 1 ≤ 63 ∧ 64 < 1 + 64 := by decide

/-- Each clause at its boundary: a view of 15 bytes; bit 128, field [64, 129), element 2 of width 64, 6 elements of 5. -/
theorem witness_BadSpansAreOutOfRange :
    ({ withWords 0 words2 with winLen := 15 }.issue 1 0).ctx.longViewOk = false ∧
    (ready 0 words2 128 0 0 .getbit).ctx.longWords ≤
      (ready 0 words2 128 0 0 .getbit).ctx.streamPos + (ready 0 words2 128 0 0 .getbit).ctx.arg0U / 64 ∧
    (ready 0 words2 0 0 0 .getfield).ctx.arg1U < 1 ∧ 64 < (ready 0 words2 0 65 0 .getfield).ctx.arg1U ∧
    (ready 0 words2 65 64 0 .getfield).ctx.longWords ≤ 0 + (65 + 64 - 1) / 64 ∧
    2 ^ 64 ≤ (ready 0 words2 0x8000000000000000 2 0 .getfieldx).ctx.arg0U *
      (ready 0 words2 0x8000000000000000 2 0 .getfieldx).ctx.arg1U ∧
    (ready 0 words2 2 64 0 .getfieldx).ctx.longWords ≤ (2 * 64 + 64 - 1) / 64 ∧
    (ready 0 array5 0 6 0 .arrayrank).ctx.longWords <
      (ready 0 array5 0 6 0 .arrayrank).ctx.arg0U + (ready 0 array5 0 6 0 .arrayrank).ctx.arg1U := by decide

/-- The whole of the five-element array of section 2.3. -/
theorem witness_ArrayrankCountsSortedKeys :
    (ready 0 array5 0 5 35 .arrayrank).ctx.longViewOk = true ∧
    (ready 0 array5 0 5 35 .arrayrank).ctx.arg0U + (ready 0 array5 0 5 35 .arrayrank).ctx.arg1U ≤
      (ready 0 array5 0 5 35 .arrayrank).ctx.longWords ∧
    (ready 0 array5 0 5 35 .arrayrank).store.quiet (ready 0 array5 0 5 35 .arrayrank).ctx.winStart
      (ready 0 array5 0 5 35 .arrayrank).ctx.winLen ∧
    (ready 0 array5 0 5 35 .arrayrank).ctx.arg1U = 5 ∧
    ∀ k < 5, ∀ j < k,
      s64 ((ready 0 array5 0 5 35 .arrayrank).store.stableWord ((ready 0 array5 0 5 35 .arrayrank).ctx.longAddr (0 + j))) <
        s64 ((ready 0 array5 0 5 35 .arrayrank).store.stableWord
          ((ready 0 array5 0 5 35 .arrayrank).ctx.longAddr (0 + k))) :=
  ⟨by decide, by decide, ready_quiet _ _ _ _ _ _ _ _, by decide, by decide +kernel⟩

theorem witness_ArrayrankCompletesOnAnyData :
    (ready 0 [50, 40, 30] 0 3 45 .arrayrank).ctx.longViewOk = true ∧
    (ready 0 [50, 40, 30] 0 3 45 .arrayrank).ctx.arg0U + (ready 0 [50, 40, 30] 0 3 45 .arrayrank).ctx.arg1U ≤
      (ready 0 [50, 40, 30] 0 3 45 .arrayrank).ctx.longWords ∧
    (ready 0 [50, 40, 30] 0 3 45 .arrayrank).store.quiet (ready 0 [50, 40, 30] 0 3 45 .arrayrank).ctx.winStart
      (ready 0 [50, 40, 30] 0 3 45 .arrayrank).ctx.winLen := ⟨by decide, by decide, ready_quiet _ _ _ _ _ _ _ _⟩

theorem witness_BlockSearchFindsTheLastBelow :
    1 ≤ 3 ∧ ∀ m m', m ≤ m' → m' < 3 → (m : Int) ≤ (m' : Int) := ⟨by decide, fun _ _ h _ => by exact_mod_cast h⟩

theorem witness_NegativeQueriesReadNothing :
    (ready 0 dict16 0xFFFFFFFFFFFFFFFF 0 0 .rank1).ctx.arg0S < 0 ∧
      (due (args State.reset 0x8000000000000000 0 0) .select0).ctx.arg0S < 0 := by decide

/-- Each clause: no view; a header with bit 63 set; index arrays one word too long for the view; an index of `n`. -/
theorem witness_DictionaryChecksComeFirst :
    Instr.rank1 ∈ dictionaryCommands ∧ 0 ≤ (ready 0 dict16 16 0 0 .rank1).ctx.arg0S ∧
    (due State.reset .rank1).ctx.dictViewOk = false ∧
    (ready 0 dict16 16 0 0 .rank1).ctx.dictViewOk = true ∧
    (ready 0 dict16 16 0 0 .rank1).store.quiet ((ready 0 dict16 16 0 0 .rank1).ctx.dictAddr 0) 8 ∧
    s64 ((ready 0 [0x8000000000000000] 0 0 0 .rank1).store.stableWord
      ((ready 0 [0x8000000000000000] 0 0 0 .rank1).ctx.dictAddr 0)) < 0 ∧
    (ready 0 [16, 0, 0, 0] 0 0 0 .rank1).ctx.dictWords <
      (headerOf (u64 ((ready 0 [16, 0, 0, 0] 0 0 0 .rank1).store.stableWord
        ((ready 0 [16, 0, 0, 0] 0 0 0 .rank1).ctx.dictAddr 0)))).body ∧
    (headerOf (u64 ((ready 0 dict16 16 0 0 .rank1).store.stableWord
      ((ready 0 dict16 16 0 0 .rank1).ctx.dictAddr 0)))).body ≤ (ready 0 dict16 16 0 0 .rank1).ctx.dictWords ∧
    s64 ((ready 0 dict16 16 0 0 .rank1).store.stableWord ((ready 0 dict16 16 0 0 .rank1).ctx.dictAddr 0)) ≤
      (ready 0 dict16 16 0 0 .rank1).ctx.arg0S :=
  ⟨by decide, by decide, by decide, by decide, ready_quiet _ _ _ _ _ _ _ _, by decide +kernel, by decide +kernel,
    by decide +kernel, by decide +kernel⟩

/-- The header of a dictionary of 16 bits is good whatever the other words are. -/
theorem header16_ok (w1 w2 w3 w4 w5 a b c : Word) (i : Instr) :
    HeaderOk (ready 0 [16, w1, w2, w3, w4, w5] a b c i).ctx (ready 0 [16, w1, w2, w3, w4, w5] a b c i).store 16 where
  view := by
    show ({ State.reset with winLen := 48 }.issue 0 0).ctx.dictViewOk = true
    decide
  quiet := ready_quiet _ _ _ _ _ _ _ _
  length := by decide
  header := by
    show (withWords 0 [16]).store.stableWord 0 = 16
    decide +kernel
  fits := by
    show (headerOf 16).body ≤ ({ State.reset with winLen := 48 }.issue 0 0).ctx.dictWords
    decide

/-- The codeword clauses at RANK1 3: a body past the view by posL12 = 60 (the class's last bits and the offset reach word
6 of 6), an offset of 1023 in class 3, rankL3 = 2 (2 + 3 > 4), and section 1.1's dictionary. -/
theorem witness_DictionaryChecksComeFirst_codeword :
    (HeaderOk (ready 0 [16, 0, 60, 0, 0, 3] 3 0 0 .rank1).ctx (ready 0 [16, 0, 60, 0, 0, 3] 3 0 0 .rank1).store 16 ∧
      HeaderOk
        (ready 0 [16, 0, 0, 0, 0, 0x3FFC000000000000] 3 0 0 .rank1).ctx
        (ready 0 [16, 0, 0, 0, 0, 0x3FFC000000000000] 3 0 0 .rank1).store 16 ∧
      HeaderOk (ready 0 (dict16.set 1 2) 3 0 0 .rank1).ctx (ready 0 (dict16.set 1 2) 3 0 0 .rank1).store 16 ∧
      HeaderOk (ready 0 dict16 3 0 0 .rank1).ctx (ready 0 dict16 3 0 0 .rank1).store 16) ∧
    3 < 16 ∧ 3 % qSpan / groupBits = 0 ∧ (ready 0 dict16 3 0 0 .rank1).ctx.arg0S = (3 : Nat) ∧
    (ready 0 dict16 3 0 0 .rank1).rom.wellFormed = true ∧
    quarterPos (ready 0 [16, 0, 60, 0, 0, 3] 3 0 0 .rank1).ctx (ready 0 [16, 0, 60, 0, 0, 3] 3 0 0 .rank1).store 16 3 = 60 ∧
    6 ≤ (headerOf 16).body + (60 + 3 + defaultRom.offsetBits 3) / 64 ∧
    quarterPos (ready 0 dict16 3 0 0 .rank1).ctx (ready 0 dict16 3 0 0 .rank1).store 16 3 = 0 ∧
    (headerOf 16).body + (0 + 3 + defaultRom.offsetBits 3) / 64 < (ready 0 dict16 3 0 0 .rank1).ctx.dictWords ∧
    bitsValue (bodyBit (ready 0 [16, 0, 0, 0, 0, 0x3FFC000000000000] 3 0 0 .rank1).ctx
      (ready 0 [16, 0, 0, 0, 0, 0x3FFC000000000000] 3 0 0 .rank1).store 16) 4 10 = 1023 ∧ defaultRom.entries 3 ≤ 1023 ∧
    quarterRank (ready 0 (dict16.set 1 2) 3 0 0 .rank1).ctx (ready 0 (dict16.set 1 2) 3 0 0 .rank1).store 16 3 = 2 ∧
    3 + 1 < 2 + smallRank (defaultRom.pattern 3 545) (3 % groupBits + 1) ∧
    quarterRank (ready 0 dict16 3 0 0 .rank1).ctx (ready 0 dict16 3 0 0 .rank1).store 16 3 = 0 ∧
    0 + smallRank (defaultRom.pattern 3 545) (3 % groupBits + 1) ≤ 3 + 1 :=
  ⟨⟨header16_ok .., header16_ok .., header16_ok .., header16_ok ..⟩, by decide +kernel⟩

/-- RANK1 64 on section 1.3's dictionary: after its quarter's first four groups, whose codewords are 5 + 5 + 5 + 15
bits and count 4 bits. -/
theorem witness_DictionaryChecksComeFirst_scanned :
    HeaderOk (ready 0 dict128 64 0 0 .rank1).ctx (ready 0 dict128 64 0 0 .rank1).store 128 ∧
    (ready 0 dict128 64 0 0 .rank1).ctx.arg0S = (64 : Nat) ∧ 64 < 128 ∧ 64 % qSpan / groupBits = 4 ∧
    scannedGroups defaultRom (bodyBit (ready 0 dict128 64 0 0 .rank1).ctx (ready 0 dict128 64 0 0 .rank1).store 128)
      (quarterPos (ready 0 dict128 64 0 0 .rank1).ctx (ready 0 dict128 64 0 0 .rank1).store 128 64) 4 = (4, 30) ∧
    bitsValue (bodyBit (ready 0 dict128 64 0 0 .rank1).ctx (ready 0 dict128 64 0 0 .rank1).store 128) 30 4 = 4 :=
  ⟨⟨by decide, ready_quiet _ _ _ _ _ _ _ _, by decide, by decide +kernel, by decide +kernel⟩, by decide +kernel⟩

theorem witness_Rank0ComplementsRank1 :
    ∃ t₁ t₀, exec .rank1 (ready 0 dict16 15 0 0 .rank1) = .next t₁ ∧
      exec .rank0 (ready 0 dict16 15 0 0 .rank1) = .next t₀ ∧ t₁.errcode = none ∧
      0 ≤ (ready 0 dict16 15 0 0 .rank1).ctx.arg0S := ⟨_, _, rfl, rfl, by decide +kernel, by decide⟩

/-- The bit-vector of section 1.1: bits 0, 2, 3 of 16. -/
def vector16 : List Bool := [true, false, true, true] ++ List.replicate 12 false

/-- Its dictionary conforms: one group of class 3, offset 545. -/
theorem dict16_conforming_rank1 :
    Conforming (ready 0 dict16 0 0 0 .rank1).ctx (ready 0 dict16 0 0 0 .rank1).store vector16 [(3, 545)] where
  romOk := by decide
  view := by decide
  quiet := ready_quiet _ _ _ _ _ _ _ _
  length := by decide
  header := by decide +kernel
  fits := by decide +kernel
  rankL3 := by decide +kernel
  posL3 := by decide +kernel
  rankBase := by decide +kernel
  rankDelta := by decide +kernel
  posBase := by decide +kernel
  posDelta := by decide +kernel
  groups := by decide
  codewords := fun g h => by
    have hg : g = 0 := Nat.lt_one_iff.mp h
    subst hg
    show CodewordOk _ _ _ _ _ (3, 545)
    unfold CodewordOk
    decide +kernel

/-- Whatever the operands and the command are. -/
theorem dict16_conforming (a b c : Word) (i : Instr) :
    Conforming (ready 0 dict16 a b c i).ctx (ready 0 dict16 a b c i).store vector16 [(3, 545)] :=
  have h := dict16_conforming_rank1
  ⟨h.romOk, h.view, h.quiet, h.length, h.header, h.fits, h.rankL3, h.posL3, h.rankBase, h.rankDelta, h.posBase,
    h.posDelta, h.groups, h.codewords⟩

/-- Index 15 is the last of the vector. -/
theorem witness_Rank1CountsSetBitsOfAConformingDictionary :
    Conforming (ready 0 dict16 15 0 0 .rank1).ctx (ready 0 dict16 15 0 0 .rank1).store vector16 [(3, 545)] ∧
      15 < vector16.length ∧ (ready 0 dict16 15 0 0 .rank1).ctx.arg0S = (15 : Nat) :=
  ⟨dict16_conforming .., by decide, by decide⟩

theorem witness_Rank0CountsClearBitsOfAConformingDictionary :
    Conforming (ready 0 dict16 0 0 0 .rank0).ctx (ready 0 dict16 0 0 0 .rank0).store vector16 [(3, 545)] ∧
      0 < vector16.length ∧ (ready 0 dict16 0 0 0 .rank0).ctx.arg0S = (0 : Nat) :=
  ⟨dict16_conforming .., by decide, by decide⟩

/-- The third set bit is the last. -/
theorem witness_Select1FindsTheSetBitOfAConformingDictionary :
    Conforming (ready 0 dict16 2 0 0 .select1).ctx (ready 0 dict16 2 0 0 .select1).store vector16 [(3, 545)] ∧
      2 < ones vector16 0 vector16.length ∧ (ready 0 dict16 2 0 0 .select1).ctx.arg0S = (2 : Nat) :=
  ⟨dict16_conforming .., by decide, by decide⟩

/-- The thirteenth clear bit is the last. -/
theorem witness_Select0FindsTheClearBitOfAConformingDictionary :
    Conforming (ready 0 dict16 12 0 0 .select0).ctx (ready 0 dict16 12 0 0 .select0).store vector16 [(3, 545)] ∧
      12 < vector16.length - ones vector16 0 vector16.length ∧
      (ready 0 dict16 12 0 0 .select0).ctx.arg0S = (12 : Nat) := ⟨dict16_conforming .., by decide, by decide⟩

/-- The least keys out of range: 3 of the set bits, 13 of the clear ones. -/
theorem witness_SelectRejectsKeysBeyondTheCount :
    (Conforming (ready 0 dict16 3 0 0 .select1).ctx (ready 0 dict16 3 0 0 .select1).store vector16 [(3, 545)] ∧
      (ones vector16 0 vector16.length : Int) ≤ (ready 0 dict16 3 0 0 .select1).ctx.arg0S) ∧
    Conforming (ready 0 dict16 13 0 0 .select0).ctx (ready 0 dict16 13 0 0 .select0).store vector16 [(3, 545)] ∧
      ((vector16.length - ones vector16 0 vector16.length : Nat) : Int) ≤
        (ready 0 dict16 13 0 0 .select0).ctx.arg0S :=
  ⟨⟨dict16_conforming .., by decide⟩, dict16_conforming .., by decide⟩

theorem witness_Rank1NeverExceedsItsPrefix :
    ∃ t, exec .rank1 (ready 0 dict16 3 0 0 .rank1) = .next t ∧ t.errcode = none ∧
      0 ≤ (ready 0 dict16 3 0 0 .rank1).ctx.arg0S ∧ t.result = 3 := ⟨_, rfl, by decide +kernel⟩

/-- The premises of `SelectChecksRaiseCorruptDictionary` for SELECT1 `k` on the words of a dictionary of `n` bits, and
what its two searches choose: L3 block 0, and L12 block `e`. -/
structure SelectPremises (ws : List Word) (n k e : Nat) (val₃ : Int) : Prop where
  header : HeaderOk (ready 0 ws k 0 0 .select1).ctx (ready 0 ws k 0 0 .select1).store n
  rom : (ready 0 ws k 0 0 .select1).rom.wellFormed = true
  some : 1 ≤ n
  key : (ready 0 ws k 0 0 .select1).ctx.arg0S = k
  count : ∃ u, exec .rank1 ((ready 0 ws k 0 0 .select1).withArg0 (BitVec.ofNat 64 (n - 1))) = .next u ∧
    u.errcode = none ∧ (k : Int) < countOf true n u.result.toNat
  l3 : bsearchGT (headerOf n).l3N (fun m => .pure (countOf true (m * l3Span) (u64 (dictEntry
    (ready 0 ws k 0 0 .select1).ctx (ready 0 ws k 0 0 .select1).store ((headerOf n).rankL3At m))))) (k + 1)
    (ready 0 ws k 0 0 .select1).store 0 = .ret 0 0
  l12 : bsearchGT (min (headerOf n).l12N l12PerL3) (fun m => .pure (countOf true (m * l12Span) (defaultPack.rb (dictEntry
    (ready 0 ws k 0 0 .select1).ctx (ready 0 ws k 0 0 .select1).store ((headerOf n).rankL12At m))))) val₃
    (ready 0 ws k 0 0 .select1).store 0 = .ret e 0

/-- The groups of a dictionary of 513 bits whose quarter delta claims 100 ones, from body bit 0 on. -/
def scanned513 (pw body : Word) (g : Nat) : Nat × Nat :=
  scannedGroups defaultRom (bodyBit (ready 0 [513, 0, 0, 0x19000000, pw, body] 0 0 0 .select1).ctx
    (ready 0 [513, 0, 0, 0x19000000, pw, body] 0 0 0 .select1).store 513) 0 g

/-- Section 2.5's lie, rankL3 = 1: SELECT1 0 is left with `val = 0`. Then rankL12's base 1 likewise. -/
theorem witness_SelectChecks_val :
    SelectPremises [16, 1, 0, 0xC00000, 0x1C00000, 0x3884000000000000] 16 0 0 0 ∧
    SelectPremises [16, 0, 0, 0x100C00000, 0x1C00000, 0x3884000000000000] 16 0 0 1 :=
  ⟨⟨⟨by decide, ready_quiet _ _ _ _ _ _ _ _, by decide, by decide +kernel, by decide +kernel⟩, by decide, by decide,
      by decide, ⟨_, rfl, by decide +kernel⟩, by decide +kernel, by decide +kernel⟩,
    ⟨by decide, ready_quiet _ _ _ _ _ _ _ _, by decide, by decide +kernel, by decide +kernel⟩, by decide, by decide,
      by decide, ⟨_, rfl, by decide +kernel⟩, by decide +kernel, by decide +kernel⟩

/-- SELECT1 50 on 1024 bits whose groups are all clear: 32 groups hold no bit of the 100 the delta claims. -/
theorem witness_SelectChecks_quarter :
    SelectPremises [0x400, 0, 0, 0x19000000, 0x14000000, 0, 0, 0, 0, 0] 1024 50 0 51 ∧
    quarterStage defaultPack 1024 true 0x19000000 0x14000000 [1, 2, 3] ⟨51, 0, 0⟩ = ⟨51, 0, 0⟩ ∧
    (scannedGroups defaultRom (bodyBit (ready 0 [0x400, 0, 0, 0x19000000, 0x14000000, 0, 0, 0, 0, 0] 50 0 0 .select1).ctx
      (ready 0 [0x400, 0, 0, 0x19000000, 0x14000000, 0, 0, 0, 0, 0] 50 0 0 .select1).store 1024) 0 groupsPerQ).1 = 0 ∧
    countOf true qSpan 0 < 51 :=
  ⟨⟨⟨by decide, ready_quiet _ _ _ _ _ _ _ _, by decide, by decide +kernel, by decide +kernel⟩, by decide, by decide,
    by decide, ⟨_, rfl, by decide +kernel⟩, by decide +kernel, by decide +kernel⟩, by decide, by decide +kernel, by decide⟩

/-- On 513 bits and a body of one word, SELECT1 50: group 11 starts at bit 64, past the view. SELECT1 0: group 12 is found
at bit 60, its offset past the view; group 0 is found with offset 1023 of 560. -/
theorem witness_SelectChecks_codeword :
    (SelectPremises [513, 0, 0, 0x19000000, 0, 0x3000000000000000] 513 50 0 51 ∧
      scanned513 0 0x3000000000000000 11 = (3, 64) ∧ 6 ≤ (headerOf 513).body + (64 + 3) / 64) ∧
    (SelectPremises [513, 0, 0, 0x19000000, 0, 3] 513 0 0 1 ∧ scanned513 0 3 12 = (0, 60) ∧ (scanned513 0 3 13).1 = 3 ∧
      6 ≤ (headerOf 513).body + (60 + 3 + defaultRom.offsetBits 3) / 64) ∧
    SelectPremises [513, 0, 0, 0x19000000, 0x2800000, 0x3FFC000000000000] 513 0 0 1 ∧
      (scanned513 0x2800000 0x3FFC000000000000 1).1 = 3 ∧
      bitsValue (bodyBit (ready 0 [513, 0, 0, 0x19000000, 0x2800000, 0x3FFC000000000000] 0 0 0 .select1).ctx
        (ready 0 [513, 0, 0, 0x19000000, 0x2800000, 0x3FFC000000000000] 0 0 0 .select1).store 513) 4 10 = 1023 ∧
      defaultRom.entries 3 ≤ 1023 :=
  ⟨⟨⟨⟨by decide, ready_quiet _ _ _ _ _ _ _ _, by decide, by decide +kernel, by decide +kernel⟩, by decide, by decide,
      by decide, ⟨_, rfl, by decide +kernel⟩, by decide +kernel, by decide +kernel⟩, by decide +kernel, by decide⟩,
    ⟨⟨⟨by decide, ready_quiet _ _ _ _ _ _ _ _, by decide, by decide +kernel, by decide +kernel⟩, by decide, by decide,
      by decide, ⟨_, rfl, by decide +kernel⟩, by decide +kernel, by decide +kernel⟩, by decide +kernel, by decide +kernel,
      by decide⟩,
    ⟨⟨by decide, ready_quiet _ _ _ _ _ _ _ _, by decide, by decide +kernel, by decide +kernel⟩, by decide, by decide,
      by decide, ⟨_, rfl, by decide +kernel⟩, by decide +kernel, by decide +kernel⟩, by decide +kernel, by decide +kernel,
      by decide⟩

/-- SELECT1 0 on 2048 bits whose first block claims 100 ones and whose empty second block, at 2048, claims none before it:
the answer, bit 13 of its first group (pattern 0x0007), is beyond `n`. And section 1.1's dictionary, where SELECT1 0 finds
bit 0. Then the bit stage: a pattern without a set bit, and bit 0 of a group at `n`. -/
theorem witness_SelectChecks_answer :
    (SelectPremises [2048, 0, 0, 0x19000000, 0, 0x2000000000, 0, 0x3000000000000000, 0, 0, 0] 2048 0 1 1 ∧
      (defaultRom.pattern 3 0).getLsbD (15 - 13) = true ∧
      (((List.range 13).countP fun b => (defaultRom.pattern 3 0).getLsbD (15 - b) == true : Nat) : Int) + 1 = 1 ∧
      2048 ≤ 2048 + groupBits * 0 + 13) ∧
    (SelectPremises [0x10, 0, 0, 0xC00000, 0x1C00000, 0x3884000000000000] 16 0 0 1 ∧
      (defaultRom.pattern 3 545).getLsbD (15 - 0) = true ∧ 0 + groupBits * 0 + 0 < 16) ∧
    ((((List.range 16).countP fun j => (0 : Pattern).getLsbD (15 - j) == true : Nat) : Int) < 1 ∧
      (0x8000 : Pattern).getLsbD (15 - 0) = true ∧ (headerOf 16).n ≤ 16 + 0) :=
  ⟨⟨⟨⟨by decide, ready_quiet _ _ _ _ _ _ _ _, by decide, by decide +kernel, by decide +kernel⟩, by decide, by decide,
      by decide, ⟨_, rfl, by decide +kernel⟩, by decide +kernel, by decide +kernel⟩, by decide, by decide, by decide⟩,
    ⟨⟨⟨by decide, ready_quiet _ _ _ _ _ _ _ _, by decide, by decide +kernel, by decide +kernel⟩, by decide, by decide,
      by decide, ⟨_, rfl, by decide +kernel⟩, by decide +kernel, by decide +kernel⟩, by decide, by decide⟩, by decide⟩

/-- A backing store of 2^8 bytes: a window that ends at the last is well-formed, one beyond is not, and a host store
beyond is refused (R50, log entry 12). -/
theorem test_addrBits :
    ({ State.reset with addrBits := 8, winStart := 248, winLen := 8 }.issue 1 0).ctx.longViewOk = true ∧
      ({ State.reset with addrBits := 8, winStart := 249, winLen := 8 }.issue 1 0).ctx.longViewOk = false := by decide
theorem test_store_beyond :
    step (pending { State.reset with addrBits := 8 } [.store 256 0]) = .refused (.noSuchAddress 256) := rfl

end Sys2Proof.Machine.Tests
end

section
/-! SUPPORT and the proof about the extractor's and ARRAYRANK's checks (R55, R121 to R123, R140, R221). -/

namespace Sys2Proof.Machine

/-! ### From a command's computation to its completion -/

/-- A computation that ends with a value completes the command with it (R224). -/
theorem exec_succeeds {i : Instr} {s : State} {v : Word} {k : Nat}
    (h : commandOf i s.ctx s.store s.reads = .ret v (s.reads + k)) : exec i s = .next (s.succeeds v k) :=
  exec_next.mpr (runCommand_ret h)

/-- A computation that ends with an error completes the command with it (R224). -/
theorem exec_failsWith {i : Instr} {s : State} {e : ErrorKind} {info : Word} {k : Nat}
    (h : commandOf i s.ctx s.store s.reads = .err e info (s.reads + k)) :
    exec i s = .next (s.failsWith e info k) :=
  exec_next.mpr (runCommand_err h)

/-- A command that is a `raise` completes with its error and no read. -/
theorem exec_failsWith_of_raise {i : Instr} {s : State} {e : ErrorKind} (h : commandOf i s.ctx = .raise e) :
    exec i s = .next (s.failsWith e 0 0) :=
  exec_failsWith (by rw [h, Engine.raise_run, Nat.add_zero])

/-! ### The checks before the reads -/

/-- A malformed long view raises OutOfRange (R55). -/
theorem longViewCheck_of_bad {c : Ctx} (h : c.longViewOk = false) : longViewCheck c = .raise .outOfRange := by
  simp [longViewCheck, h]

/-- A well-formed long view gives its number of words (R55). -/
theorem longViewCheck_of_ok {c : Ctx} (h : c.longViewOk = true) : longViewCheck c = .pure c.longWords := by
  simp [longViewCheck, h]

/-- A malformed view and an OutOfRange that what follows the check raises by itself are one outcome (R55). -/
theorem longViewCheck_bind_raise {α : Type} {c : Ctx} {f : Nat → Engine α}
    (h : c.longViewOk = false ∨ f c.longWords = .raise .outOfRange) :
    (longViewCheck c).bind f = .raise .outOfRange := by
  cases hv : c.longViewOk with
  | false => rw [longViewCheck_of_bad hv, Engine.raise_bind]
  | true => rw [longViewCheck_of_ok hv, Engine.pure_bind, h.resolve_left (by simp [hv])]

theorem badWidth_iff {w : Nat} : badWidth w = true ↔ w < 1 ∨ 64 < w := by
  simp [badWidth]

/-- GETBIT's view and span checks (R121). -/
theorem getbitCmd_raise {c : Ctx} (h : c.longViewOk = false ∨ c.longWords ≤ c.streamPos + c.arg0U / 64) :
    getbitCmd c = .raise .outOfRange :=
  longViewCheck_bind_raise (h.imp_right fun hs => if_pos hs)

/-- GETFIELD's width, view and span checks (R122). -/
theorem getfieldCmd_raise {c : Ctx} (h : badWidth c.arg1U = true ∨ c.longViewOk = false ∨
      c.longWords ≤ c.streamPos + (c.arg0U + c.arg1U - 1) / 64) :
    getfieldCmd c = .raise .outOfRange := by
  unfold getfieldCmd
  split
  case isTrue => rfl
  case isFalse hw =>
    exact longViewCheck_bind_raise ((h.resolve_left hw).imp_right fun hs => if_pos hs)

/-- GETFIELDX's width, product, view and span checks (R123). -/
theorem getfieldxCmd_raise {c : Ctx} (h : badWidth c.arg1U = true ∨ 2 ^ 64 ≤ c.arg0U * c.arg1U ∨
      c.longViewOk = false ∨ c.longWords ≤ (c.arg0U * c.arg1U + c.arg1U - 1) / 64) :
    getfieldxCmd c = .raise .outOfRange := by
  unfold getfieldxCmd
  split_ifs with hw hp
  · rfl
  · rfl
  · exact longViewCheck_bind_raise (((h.resolve_left hw).resolve_left hp).imp_right fun hs => if_pos hs)

/-- ARRAYRANK's view and span checks (R140). -/
theorem arrayrankCmd_raise {c : Ctx} (h : c.longViewOk = false ∨ c.longWords < c.arg0U + c.arg1U) :
    arrayrankCmd c = .raise .outOfRange :=
  longViewCheck_bind_raise (h.imp_right fun hs => if_pos hs)

/-- Settles O46: each command's checks raise before its first read. -/
theorem badSpansAreOutOfRange : Obligations.BadSpansAreOutOfRange := by
  unfold Obligations.BadSpansAreOutOfRange
  refine fun s => ⟨fun h => ?_, fun h => ?_, fun h => ?_, fun h => ?_⟩
  · exact exec_failsWith_of_raise (getbitCmd_raise h)
  · exact exec_failsWith_of_raise (getfieldCmd_raise (by rwa [badWidth_iff, or_assoc]))
  · exact exec_failsWith_of_raise (getfieldxCmd_raise (by rwa [badWidth_iff, or_assoc]))
  · exact exec_failsWith_of_raise (arrayrankCmd_raise h)

end Sys2Proof.Machine
end

section
/-! SUPPORT. The bit stream of a quiet store, word by word and field by field (R53, R73, R120). -/

namespace Sys2Proof.Machine

/-! ### The bit stream -/

theorem bitsValue_lt (bit : Nat → Bool) (sb w : Nat) : bitsValue bit sb w < 2 ^ w := by
  induction w with
  | zero => simp [bitsValue]
  | succ w ih =>
    have := Bool.toNat_lt (bit (sb + w))
    simp only [bitsValue]
    omega

/-- The number a field spells has the field's bits, the last the least significant (R11). -/
theorem testBit_bitsValue (bit : Nat → Bool) (sb w j : Nat) :
    (bitsValue bit sb w).testBit j = (decide (j < w) && bit (sb + (w - 1 - j))) := by
  induction w generalizing j with
  | zero => simp [bitsValue]
  | succ w ih =>
    have hb : 2 * bitsValue bit sb w + (bit (sb + w)).toNat = Nat.bit (bit (sb + w)) (bitsValue bit sb w) := by
      cases bit (sb + w) <;> rfl
    rw [bitsValue, hb]
    cases j with
    | zero => simp
    | succ j => simp [Nat.testBit_bit_succ, ih, Nat.sub_sub, Nat.add_comm 1 j]

/-- Bit `8 q + r` of a big-endian word is bit `r` of byte `7 - q` (R53). -/
theorem getLsbD_beWord (b : Nat → Byte) {q r : Nat} (hq : q < 8) (hr : r < 8) :
    (beWord b).getLsbD (8 * q + r) = (b (7 - q)).getLsbD r := by
  interval_cases q <;> simp only [beWord, BitVec.getLsbD_append] <;>
    simp (disch := omega) only [if_pos, if_neg] <;> congr 1 <;> omega

/-- Bit `j` of the stream's word `x` is stream bit `64 x + 63 - j` (R73). -/
theorem getLsbD_stableWord (st : Store) (a x : Nat) {j : Nat} (h : j < 64) :
    (st.stableWord (a + 8 * x)).getLsbD j = st.streamBit a (64 * x + (63 - j)) := by
  have hj : j = 8 * (j / 8) + j % 8 := by omega
  have hbyte : a + 8 * x + (7 - j / 8) = a + (64 * x + (63 - j)) / 8 := by omega
  have hbit : j % 8 = 7 - (64 * x + (63 - j)) % 8 := by omega
  calc (st.stableWord (a + 8 * x)).getLsbD j
      = (st.stableWord (a + 8 * x)).getLsbD (8 * (j / 8) + j % 8) := by rw [← hj]
    _ = (st.stableByte (a + 8 * x + (7 - j / 8))).getLsbD (j % 8) := getLsbD_beWord _ (by omega) (by omega)
    _ = st.streamBit a (64 * x + (63 - j)) := by rw [Store.streamBit, ← hbyte, ← hbit]

/-- `Field` inside one word of the stream is the number the field spells (R120, R73). -/
theorem fieldOne_stableWord (st : Store) (a x : Nat) {s w : Nat} (h : s + w ≤ 64) :
    fieldOne (st.stableWord (a + 8 * x)) s w = bitsValue (st.streamBit a) (64 * x + s) w := by
  refine Nat.eq_of_testBit_eq fun j => ?_
  rw [fieldOne, BitVec.testBit_toNat, testBit_bitsValue, BitVec.getLsbD_ushiftRight, BitVec.getLsbD_shiftLeft]
  by_cases hj : j < w
  · have hlt : 64 - w + j < 64 := by omega
    have hge : ¬ 64 - w + j < s := by omega
    rw [getLsbD_stableWord st a x (by omega),
      show 64 * x + (63 - (64 - w + j - s)) = 64 * x + s + (w - 1 - j) by omega]
    simp [hj, hlt, hge]
  · have hge : ¬ 64 - w + j < 64 := by omega
    simp [hj, hge]

/-- `Field` across two words of the stream is the number the field spells (R120, R73). -/
theorem fieldTwo_stableWord (st : Store) (a x : Nat) {s w : Nat} (hs : s < 64) (hw : w ≤ 64) (h : 64 < s + w) :
    fieldTwo (st.stableWord (a + 8 * x)) (st.stableWord (a + 8 * (x + 1))) s w =
      bitsValue (st.streamBit a) (64 * x + s) w := by
  refine Nat.eq_of_testBit_eq fun j => ?_
  rw [fieldTwo, Nat.testBit_mod_two_pow, BitVec.testBit_toNat, testBit_bitsValue, BitVec.getLsbD_ushiftRight,
    BitVec.getLsbD_append]
  by_cases hj : j < w
  · congr 1
    split
    case isTrue hlo =>
      rw [getLsbD_stableWord st a (x + 1) hlo]
      congr 1
      omega
    case isFalse hhi =>
      rw [getLsbD_stableWord st a x (by omega)]
      congr 1
      omega
  · simp [hj]

/-- `Field` on a reader that answers with the words of a stream gives the number its bits spell, after one read or, where
it crosses a word boundary, two (R120, R73). -/
theorem field_run {read : Nat → Engine Word} {st : Store} {a base sb w : Nat} (h1 : 1 ≤ w) (hw : w ≤ 64)
    (hr : ∀ x ≤ (sb + w - 1) / 64, ∀ k, read (base + x) st k = .ret (st.stableWord (a + 8 * x)) (k + 1)) (k : Nat) :
    field read base sb w st k =
      .ret (bitsValue (st.streamBit a) sb w) (k + if sb % 64 + w ≤ 64 then 1 else 2) := by
  have hsb : 64 * (sb / 64) + sb % 64 = sb := Nat.div_add_mod sb 64
  rw [field, Engine.bind_ret (hr (sb / 64) (by omega) k)]
  by_cases hc : sb % 64 + w ≤ 64
  · rw [if_pos hc, if_pos hc, Engine.pure_run, fieldOne_stableWord st a _ hc, hsb]
  · rw [if_neg hc, if_neg hc, Nat.add_assoc base, Engine.bind_ret (hr (sb / 64 + 1) (by omega) _), Engine.pure_run,
      fieldTwo_stableWord st a _ (by omega) hw (by omega), hsb]

end Sys2Proof.Machine
end

section
/-! SUPPORT. The end of a computation on one store as an outcome and a number of reads, carried along by `bind`. -/

namespace Sys2Proof.Machine

variable {α β : Type}

/-! ### How a computation ends, whatever number its first read has -/

/-- The end of a computation after `k` reads: a value, or an error that records 0 (R12). -/
def Run.ofOutcome (o : Except ErrorKind α) (k : Nat) : Run α :=
  match o with
  | .ok v => .ret v k
  | .error e => .err e 0 k

/-- On the store `st` the computation makes `d` reads and ends with the outcome `o`. -/
def Engine.EndsAfter (m : Engine α) (st : Store) (d : Nat) (o : Except ErrorKind α) : Prop :=
  ∀ k, m st k = Run.ofOutcome o (k + d)

/-- On the store `st` the computation ends with the outcome `o`, after a number of reads that does not depend on how many
were made before. -/
def Engine.Ends (m : Engine α) (st : Store) (o : Except ErrorKind α) : Prop := ∃ d, m.EndsAfter st d o

theorem Engine.EndsAfter.ends {m : Engine α} {st : Store} {d : Nat} {o : Except ErrorKind α} (h : m.EndsAfter st d o) :
    m.Ends st o := ⟨d, h⟩

theorem Engine.pure_endsAfter (v : α) (st : Store) : (Engine.pure v).EndsAfter st 0 (.ok v) := fun _ => rfl

theorem Engine.raise_endsAfter (e : ErrorKind) (st : Store) :
    (Engine.raise e : Engine α).EndsAfter st 0 (.error e) := fun _ => rfl

theorem Engine.EndsAfter.bind_ok {m : Engine α} {f : α → Engine β} {st : Store} {d d' : Nat} {v : α}
    {o : Except ErrorKind β} (h : m.EndsAfter st d (.ok v)) (h' : (f v).EndsAfter st d' o) :
    (m.bind f).EndsAfter st (d + d') o := fun k => by
  rw [Engine.bind_ret (h k), h', Nat.add_assoc]

theorem Engine.EndsAfter.bind_error {m : Engine α} {st : Store} {d : Nat} {e : ErrorKind}
    (h : m.EndsAfter st d (.error e)) (f : α → Engine β) : (m.bind f).EndsAfter st d (.error e) :=
  fun k => Engine.bind_err (h k)

/-- A computation whose value is only converted ends with its outcome converted. -/
theorem Engine.EndsAfter.bind_pure {m : Engine α} {st : Store} {d : Nat} {o : Except ErrorKind α}
    (h : m.EndsAfter st d o) (f : α → β) : (m.bind fun v => .pure (f v)).EndsAfter st d (o.map f) := by
  cases o with
  | ok v => exact h.bind_ok (f := fun v => Engine.pure (f v)) (Engine.pure_endsAfter (f v) st)
  | error e => exact h.bind_error _

theorem Engine.pure_ends (v : α) (st : Store) : (Engine.pure v).Ends st (.ok v) := ⟨0, Engine.pure_endsAfter v st⟩

theorem Engine.raise_ends (e : ErrorKind) (st : Store) : (Engine.raise e : Engine α).Ends st (.error e) :=
  ⟨0, Engine.raise_endsAfter e st⟩

theorem Engine.Ends.bind_ok {m : Engine α} {f : α → Engine β} {st : Store} {v : α} {o : Except ErrorKind β}
    (h : m.Ends st (.ok v)) (h' : (f v).Ends st o) : (m.bind f).Ends st o := by
  obtain ⟨d, hd⟩ := h
  obtain ⟨d', hd'⟩ := h'
  exact ⟨d + d', hd.bind_ok hd'⟩

theorem Engine.Ends.bind_error {m : Engine α} {st : Store} {e : ErrorKind} (h : m.Ends st (.error e))
    (f : α → Engine β) : (m.bind f).Ends st (.error e) := by
  obtain ⟨d, hd⟩ := h
  exact ⟨d, hd.bind_error f⟩

/-- A command whose computation ends with a value after `k` reads succeeds with it (R224). -/
theorem exec_succeeds_of_endsAfter {i : Instr} {s : State} {v : Word} {k : Nat}
    (h : (commandOf i s.ctx).EndsAfter s.store k (.ok v)) : exec i s = .next (s.succeeds v k) :=
  exec_succeeds (h s.reads)

/-- A command whose computation ends with an error after `k` reads fails with it (R224). -/
theorem exec_failsWith_of_endsAfter {i : Instr} {s : State} {e : ErrorKind} {k : Nat}
    (h : (commandOf i s.ctx).EndsAfter s.store k (.error e)) : exec i s = .next (s.failsWith e 0 k) :=
  exec_failsWith (h s.reads)

end Sys2Proof.Machine
end

section
/-! SUPPORT. The dictionary's view and header checks (R56, R57, R74) and the commands that begin with them. -/

namespace Sys2Proof.Machine

/-! ### The dictionary's header (R56, R57, R74) -/

/-- A malformed dictionary view raises OutOfRange (R56, R74). -/
theorem dictHeader_of_badView {c : Ctx} (h : c.dictViewOk = false) : dictHeader c = .raise .outOfRange := by
  simp [dictHeader, dictViewCheck, h]

/-- A well-formed dictionary view holds its header word (R56). -/
theorem dictWords_pos {c : Ctx} (h : c.dictViewOk = true) : 0 < c.dictWords := by
  have h8 : 8 ≤ c.winLen - c.dictBase := by
    simp only [Ctx.dictViewOk, Bool.and_eq_true, decide_eq_true_eq] at h
    exact h.2
  simp only [Ctx.dictWords]
  omega

/-- A dictionary word past the view raises CorruptDictionary (R57). -/
theorem dictWord_past {c : Ctx} {j : Nat} (h : c.dictWords ≤ j) : dictWord c j = .raise .corruptDictionary := if_pos h

/-- A dictionary word inside the view whose bytes are quiet answers (R57). -/
theorem dictWord_endsAfter {c : Ctx} {st : Store} {j : Nat} (hj : j < c.dictWords) (hq : st.quiet (c.dictAddr j) 8) :
    (dictWord c j).EndsAfter st 1 (.ok (dictEntry c st j)) := fun k => by
  rw [dictWord, if_neg (by omega), memRead_of_quiet hq (le_refl _) (le_refl _)]
  rfl

/-- Every word of a quiet view is quiet. -/
theorem quiet_dictAddr {c : Ctx} {st : Store} {j : Nat} (hq : st.quiet (c.dictAddr 0) (8 * c.dictWords))
    (hj : j < c.dictWords) : st.quiet (c.dictAddr j) 8 := fun x h₁ h₂ => by
  simp only [Ctx.dictAddr] at h₁ h₂
  exact hq x (by simp only [Ctx.dictAddr]; omega) (by simp only [Ctx.dictAddr]; omega)

/-- A word with bit 63 clear is one number, signed or not (R10). -/
theorem s64_of_nonneg {w : Word} (h : 0 ≤ s64 w) : s64 w = u64 w := by
  simp only [s64, u64, BitVec.toInt_eq_toNat_cond] at h ⊢
  split at h <;> omega

/-- What the header word of a well-formed view gives (R74). -/
def headerOutcome (c : Ctx) (w : Word) : Except ErrorKind Header :=
  if s64 w < 0 ∨ c.dictWords < (headerOf (u64 w)).body then .error .corruptDictionary else .ok (headerOf (u64 w))

/-- `DictHeader` on a well-formed view reads the header word and checks it (R74). -/
theorem dictHeader_endsAfter {c : Ctx} {st : Store} (hv : c.dictViewOk = true) (hq : st.quiet (c.dictAddr 0) 8) :
    (dictHeader c).EndsAfter st 1 (headerOutcome c (dictEntry c st 0)) := by
  simp only [dictHeader, dictViewCheck, hv, if_true, Engine.pure_bind]
  refine (dictWord_endsAfter (dictWords_pos hv) hq).bind_ok (d' := 0) ?_
  generalize dictEntry c st 0 = w
  by_cases hs : s64 w < 0
  · rw [if_pos hs, headerOutcome, if_pos (.inl hs)]
    exact Engine.raise_endsAfter _ st
  · by_cases hb : c.dictWords < (headerOf (u64 w)).body
    · rw [if_neg hs, if_pos hb, headerOutcome, if_pos (.inr hb)]
      exact Engine.raise_endsAfter _ st
    · rw [if_neg hs, if_neg hb, headerOutcome, if_neg (by tauto)]
      exact Engine.pure_endsAfter _ st

/-- A header that R74 accepts is delivered after one read. -/
theorem HeaderOk.dictHeader_endsAfter {c : Ctx} {st : Store} {n : Nat} (h : HeaderOk c st n) :
    (dictHeader c).EndsAfter st 1 (.ok (headerOf n)) := by
  have hn : u64 (dictEntry c st 0) = n := by
    have := h.length
    rw [dictEntry, h.header, u64, BitVec.toNat_ofNat]
    omega
  have hs : ¬ s64 (dictEntry c st 0) < 0 := by
    have := h.length
    rw [s64, BitVec.toInt_eq_toNat_of_lt (by rw [u64] at hn; omega)]
    omega
  have hout : headerOutcome c (dictEntry c st 0) = .ok (headerOf n) := by
    rw [headerOutcome, hn, if_neg (not_or.mpr ⟨hs, Nat.not_lt.mpr h.fits⟩)]
  exact hout ▸ Sys2Proof.Machine.dictHeader_endsAfter h.view (quiet_dictAddr h.quiet (dictWords_pos h.view))

/-! ### What follows the header check in each command -/

/-- RANK1 of a non-negative index (R160). -/
theorem rank1Cmd_of_nonneg {c : Ctx} (h : 0 ≤ c.arg0S) :
    rank1Cmd c = (dictHeader c).bind fun hd =>
      if hd.n ≤ c.arg0S.toNat then .raise .outOfRange
      else (rank1Core c hd c.arg0S.toNat).bind fun r => .pure (zext64 r) :=
  if_neg (not_lt.mpr h)

/-- RANK0 of a non-negative index (R162). -/
theorem rank0Cmd_of_nonneg {c : Ctx} (h : 0 ≤ c.arg0S) :
    rank0Cmd c = (dictHeader c).bind fun hd =>
      if hd.n ≤ c.arg0S.toNat then .raise .outOfRange
      else (rank1Core c hd c.arg0S.toNat).bind fun r => .pure (zext64 (c.arg0S.toNat + 1 - r)) :=
  if_neg (not_lt.mpr h)

/-- Every dictionary command on a non-negative operand begins with the header check (R74, R160, R162, R190). -/
theorem dictionaryCommand_begins {i : Instr} {c : Ctx} (hi : i ∈ dictionaryCommands) (h : 0 ≤ c.arg0S) :
    ∃ f : Header → Engine Word, commandOf i c = (dictHeader c).bind f := by
  simp only [dictionaryCommands, List.mem_cons, List.not_mem_nil, or_false] at hi
  rcases hi with rfl | rfl | rfl | rfl
  · exact ⟨_, rank1Cmd_of_nonneg h⟩
  · exact ⟨_, rank0Cmd_of_nonneg h⟩
  · exact ⟨_, if_neg (not_lt.mpr h)⟩
  · exact ⟨_, if_neg (not_lt.mpr h)⟩

/-- RANK1 and RANK0 check the index right after the header (R160, R162). -/
theorem rankCommand_begins {i : Instr} {c : Ctx} (hi : i = .rank1 ∨ i = .rank0) (h : 0 ≤ c.arg0S) :
    ∃ f : Header → Engine Word, commandOf i c = (dictHeader c).bind fun hd =>
      if hd.n ≤ c.arg0S.toNat then .raise .outOfRange else f hd := by
  rcases hi with rfl | rfl
  · exact ⟨_, rank1Cmd_of_nonneg h⟩
  · exact ⟨_, rank0Cmd_of_nonneg h⟩

/-- A malformed view ends a dictionary command with OutOfRange and no read (R56). -/
theorem exec_of_badView {i : Instr} {s : State} (hi : i ∈ dictionaryCommands) (h0 : 0 ≤ s.ctx.arg0S)
    (hv : s.ctx.dictViewOk = false) : exec i s = .next (s.failsWith .outOfRange 0 0) := by
  obtain ⟨f, hf⟩ := dictionaryCommand_begins hi h0
  exact exec_failsWith_of_raise (by rw [hf, dictHeader_of_badView hv, Engine.raise_bind])

/-- A bad header ends a dictionary command with CorruptDictionary after one read (R74). -/
theorem exec_of_badHeader {i : Instr} {s : State} (hi : i ∈ dictionaryCommands) (h0 : 0 ≤ s.ctx.arg0S)
    (hv : s.ctx.dictViewOk = true) (hq : s.store.quiet (s.ctx.dictAddr 0) 8)
    (hb : s64 (dictEntry s.ctx s.store 0) < 0 ∨
      s.ctx.dictWords < (headerOf (u64 (dictEntry s.ctx s.store 0))).body) :
    exec i s = .next (s.failsWith .corruptDictionary 0 1) := by
  obtain ⟨f, hf⟩ := dictionaryCommand_begins hi h0
  have hd := dictHeader_endsAfter hv hq
  rw [headerOutcome, if_pos hb] at hd
  exact exec_failsWith_of_endsAfter (hf ▸ hd.bind_error f)

/-- An index at or beyond `n` ends RANK1 and RANK0 with OutOfRange after one read (R160, R162). -/
theorem exec_of_indexBeyond {i : Instr} {s : State} (hi : i = .rank1 ∨ i = .rank0) (h0 : 0 ≤ s.ctx.arg0S)
    (hv : s.ctx.dictViewOk = true) (hq : s.store.quiet (s.ctx.dictAddr 0) 8)
    (hs : 0 ≤ s64 (dictEntry s.ctx s.store 0))
    (hb : (headerOf (u64 (dictEntry s.ctx s.store 0))).body ≤ s.ctx.dictWords)
    (hn : s64 (dictEntry s.ctx s.store 0) ≤ s.ctx.arg0S) : exec i s = .next (s.failsWith .outOfRange 0 1) := by
  obtain ⟨f, hf⟩ := rankCommand_begins hi h0
  have hd := dictHeader_endsAfter hv hq
  rw [headerOutcome, if_neg (by omega)] at hd
  have hle : (headerOf (u64 (dictEntry s.ctx s.store 0))).n ≤ s.ctx.arg0S.toNat := by
    rw [s64_of_nonneg hs] at hn
    simp only [headerOf]
    omega
  refine exec_failsWith_of_endsAfter (hf ▸ hd.bind_ok (d' := 0) ?_)
  rw [if_pos hle]
  exact Engine.raise_endsAfter _ _

end Sys2Proof.Machine
end

section
/-! SUPPORT. What the codeword decoder does on any dictionary words in a quiet view (R62, R161, R222). -/

namespace Sys2Proof.Machine

/-! ### Fields of the codeword body (R62) -/

section BodyFields

variable {c : Ctx} {st : Store} (hq : st.quiet (c.dictAddr 0) (8 * c.dictWords)) (n : Nat)

include hq

/-- A body field that ends inside the view is the number its bits spell (R62). -/
theorem bodyField_ends_ok {pos w : Nat} (h1 : 1 ≤ w) (hw : w ≤ 64)
    (hin : (headerOf n).body + (pos + w - 1) / 64 < c.dictWords) :
    (bodyField c (headerOf n) pos w).Ends st (.ok (bitsValue (bodyBit c st n) pos w)) := by
  refine ⟨_, field_run h1 hw fun x hx k => ?_⟩
  have ha : c.dictAddr (headerOf n).body + 8 * x = c.dictAddr ((headerOf n).body + x) := by
    simp only [Ctx.dictAddr]
    omega
  have hj : (headerOf n).body + x < c.dictWords := by omega
  exact ha ▸ dictWord_endsAfter hj (quiet_dictAddr hq hj) k

/-- A body field that ends past the view raises CorruptDictionary (R57, R222 (c)): its first word is past the view, or it
crosses a word boundary and its second is. -/
theorem bodyField_ends_error {pos w : Nat} (hw : w ≤ 64)
    (hout : c.dictWords ≤ (headerOf n).body + (pos + w - 1) / 64) :
    (bodyField c (headerOf n) pos w).Ends st (.error .corruptDictionary) := by
  unfold bodyField field
  by_cases ha : (headerOf n).body + pos / 64 < c.dictWords
  · refine (dictWord_endsAfter ha (quiet_dictAddr hq ha)).ends.bind_ok ?_
    rw [if_neg (by omega), dictWord_past (by omega), Engine.raise_bind]
    exact Engine.raise_ends _ st
  · rw [dictWord_past (by omega), Engine.raise_bind]
    exact Engine.raise_ends _ st

end BodyFields

/-! ### One group's count (R62, R161) -/

/-- The set bits that the codeword at body offset `pos` counts (R62): 16 times the flag in class 0. -/
def codewordOnes (bit : Nat → Bool) (pos : Nat) : Nat :=
  if bitsValue bit pos classBits = 0 then 16 * (bit (pos + classBits)).toNat else bitsValue bit pos classBits

/-- The body offset after the codeword at `pos` (R62). -/
def codewordEnd (r : Rom) (bit : Nat → Bool) (pos : Nat) : Nat :=
  pos + classBits + r.offsetBits (bitsValue bit pos classBits)

theorem scannedGroups_succ (r : Rom) (bit : Nat → Bool) (pos g : Nat) :
    scannedGroups r bit pos (g + 1) =
      ((scannedGroups r bit pos g).1 + codewordOnes bit (scannedGroups r bit pos g).2,
        codewordEnd r bit (scannedGroups r bit pos g).2) := rfl

theorem offsetBits_zero (r : Rom) : r.offsetBits 0 = 1 := rfl

/-- A well-formed ROM's offset widths are at most 16 (R107). -/
theorem offsetBits_le {r : Rom} (h : r.wellFormed = true) {cls : Nat} (hc : cls ≤ 16) : r.offsetBits cls ≤ 16 := by
  by_cases h0 : cls = 0
  · simp [h0, offsetBits_zero]
  · simp only [Rom.wellFormed, Bool.and_eq_true, List.all_eq_true, List.mem_range] at h
    have hcls := h.2 (cls - 1) (by omega)
    simp only [RomClass.wellFormed, Bool.and_eq_true, decide_eq_true_eq] at hcls
    rw [Rom.offsetBits, if_neg h0]
    exact hcls.1

/-- A class field is at most 15 (R62). -/
theorem classField_le (bit : Nat → Bool) (pos : Nat) : bitsValue bit pos classBits ≤ 15 :=
  Nat.le_of_lt_succ (bitsValue_lt bit pos classBits)

theorem add_classBits_le_codewordEnd (r : Rom) (bit : Nat → Bool) (pos : Nat) :
    pos + 4 ≤ codewordEnd r bit pos := Nat.le_add_right _ _

section Groups

variable {c : Ctx} {st : Store} (hq : st.quiet (c.dictAddr 0) (8 * c.dictWords)) (n : Nat)

include hq

/-- A group is counted as its codeword stands, or the codeword reaches past the view and raises CorruptDictionary
(R161, R222 (c)). -/
theorem groupCount_ends (pos : Nat) :
    (groupCount c (headerOf n) pos).Ends st
        (.ok (bitsValue (bodyBit c st n) pos classBits, codewordOnes (bodyBit c st n) pos)) ∨
      (groupCount c (headerOf n) pos).Ends st (.error .corruptDictionary) ∧
        c.dictWords ≤ (headerOf n).body + (codewordEnd c.rom (bodyBit c st n) pos - 1) / 64 := by
  have hend := add_classBits_le_codewordEnd c.rom (bodyBit c st n) pos
  unfold groupCount
  by_cases hcls : (headerOf n).body + (pos + 4 - 1) / 64 < c.dictWords
  case neg =>
    exact .inr ⟨(bodyField_ends_error hq n (by decide) (Nat.not_lt.mp hcls)).bind_error _, by omega⟩
  case pos =>
    have hclass := bodyField_ends_ok hq n (w := classBits) (by decide) (by decide) hcls
    by_cases h0 : bitsValue (bodyBit c st n) pos classBits = 0
    case neg =>
      refine .inl (hclass.bind_ok ?_)
      rw [if_neg h0, codewordOnes, if_neg h0]
      exact Engine.pure_ends _ st
    case pos =>
      by_cases hflag : (headerOf n).body + (pos + classBits + 1 - 1) / 64 < c.dictWords
      case pos =>
        have hv := bodyField_ends_ok hq n (w := 1) (by decide) (by decide) hflag
        refine .inl (hclass.bind_ok ?_)
        rw [if_pos h0]
        refine hv.bind_ok ?_
        simp only [codewordOnes, if_pos h0, bitsValue, Nat.mul_zero, Nat.zero_add, Nat.add_zero]
        exact Engine.pure_ends _ st
      case neg =>
        refine .inr ⟨hclass.bind_ok ?_, ?_⟩
        · rw [if_pos h0]
          exact (bodyField_ends_error hq n (by decide) (Nat.not_lt.mp hflag)).bind_error _
        · rw [codewordEnd, h0, offsetBits_zero]
          exact Nat.not_lt.mp hflag

omit hq in
/-- Counting one group more is counting it after the others. -/
theorem scanGroups_succ (h : Header) (g res pos : Nat) :
    scanGroups c h (g + 1) res pos = (scanGroups c h g res pos).bind fun x =>
      (groupCount c h x.2).bind fun y => .pure (x.1 + y.2, x.2 + classBits + c.rom.offsetBits y.1) := by
  induction g generalizing res pos with
  | zero => rfl
  | succ g ih =>
    rw [scanGroups, scanGroups, Engine.bind_assoc]
    exact congrArg _ (funext fun y => ih _ _)

/-- The groups are counted as their codewords stand, or one of them reaches past the view and raises CorruptDictionary
(R161, R222 (c)). -/
theorem scanGroups_ends (res pos g : Nat) :
    (scanGroups c (headerOf n) g res pos).Ends st (.ok
        (res + (scannedGroups c.rom (bodyBit c st n) pos g).1, (scannedGroups c.rom (bodyBit c st n) pos g).2)) ∨
      (scanGroups c (headerOf n) g res pos).Ends st (.error .corruptDictionary) ∧
        c.dictWords ≤ (headerOf n).body + (scannedGroups c.rom (bodyBit c st n) pos g).2 / 64 := by
  induction g with
  | zero => exact .inl (Engine.pure_ends _ st)
  | succ g ih =>
    have hend := add_classBits_le_codewordEnd c.rom (bodyBit c st n) (scannedGroups c.rom (bodyBit c st n) pos g).2
    rw [scanGroups_succ, scannedGroups_succ]
    rcases ih with hscan | ⟨hscan, hpast⟩
    · rcases groupCount_ends hq n (scannedGroups c.rom (bodyBit c st n) pos g).2 with hgroup | ⟨hgroup, hpast⟩
      · refine .inl (hscan.bind_ok (hgroup.bind_ok ?_))
        rw [← Nat.add_assoc]
        exact Engine.pure_ends _ st
      · exact .inr ⟨hscan.bind_ok (hgroup.bind_error _), by dsimp only; omega⟩
    · exact .inr ⟨hscan.bind_error _, by dsimp only; omega⟩

/-- The pattern of the group at `pos` whose class field is `cls` (R62, R222 (c), (d)): an offset field that ends past the
view, or an offset beyond the table, raises CorruptDictionary. -/
theorem groupPattern_ends (pos : Nat) {cls : Nat} (hw : c.rom.offsetBits cls ≤ 64)
    (hcls : (headerOf n).body + (pos + 3) / 64 < c.dictWords) :
    (groupPattern c (headerOf n) pos cls).Ends st
      (if c.dictWords ≤ (headerOf n).body + (pos + 3 + c.rom.offsetBits cls) / 64 ∨
          c.rom.entries cls ≤ bitsValue (bodyBit c st n) (pos + 4) (c.rom.offsetBits cls)
        then .error .corruptDictionary
        else .ok (c.rom.pattern cls (bitsValue (bodyBit c st n) (pos + 4) (c.rom.offsetBits cls)))) := by
  have hfield : pos + classBits + c.rom.offsetBits cls - 1 = pos + 3 + c.rom.offsetBits cls := by
    simp only [classBits]
    omega
  unfold groupPattern
  by_cases hin : (headerOf n).body + (pos + 3 + c.rom.offsetBits cls) / 64 < c.dictWords
  case pos =>
    have hoff : (if c.rom.offsetBits cls = 0 then Engine.pure 0
        else bodyField c (headerOf n) (pos + classBits) (c.rom.offsetBits cls)).Ends st
          (.ok (bitsValue (bodyBit c st n) (pos + 4) (c.rom.offsetBits cls))) := by
      split
      case isTrue h0 =>
        rw [h0]
        exact Engine.pure_ends _ st
      case isFalse h0 => exact bodyField_ends_ok hq n (by omega) hw (hfield ▸ hin)
    refine hoff.bind_ok ?_
    split
    case isTrue ho =>
      rw [if_pos (.inr ho)]
      exact Engine.raise_ends _ st
    case isFalse ho =>
      rw [if_neg (not_or.mpr ⟨Nat.not_le.mpr hin, ho⟩)]
      exact Engine.pure_ends _ st
  case neg =>
    have h0 : c.rom.offsetBits cls ≠ 0 := fun h => hin (by rwa [h])
    rw [if_neg h0, if_pos (.inl (Nat.not_lt.mp hin))]
    exact (bodyField_ends_error hq n hw (hfield ▸ Nat.not_lt.mp hin)).bind_error _

end Groups

end Sys2Proof.Machine
end

section
/-! SUPPORT and the proof about the dictionary commands' view, header and codeword checks. -/

namespace Sys2Proof.Machine

/-! ### RANK1 and RANK0 on any dictionary words (R160 to R162) -/

/-- The part of `Rank1Core` after the whole groups (R161): `x` is the count so far and the body offset of the group that
holds bit `i`. -/
def lastGroup (c : Ctx) (h : Header) (i : Nat) (x : Nat × Nat) : Engine Nat :=
  (bodyField c h x.2 classBits).bind fun cls =>
  (groupPattern c h x.2 cls).bind fun pat =>
  if i + 1 < x.1 + smallRank pat (i % groupBits + 1) then .raise .corruptDictionary
  else .pure (x.1 + smallRank pat (i % groupBits + 1))

/-- `Rank1Core` (R161): the four index words, the groups before the last, the last group. -/
theorem rank1Core_eq (c : Ctx) (h : Header) (i : Nat) :
    rank1Core c h i =
      (dictWord c (h.rankL3At (i / l3Span))).bind fun r3 =>
      (dictWord c (h.posL3At (i / l3Span))).bind fun p3 =>
      (dictWord c (h.rankL12At (i / l12Span))).bind fun r12 =>
      (dictWord c (h.posL12At (i / l12Span))).bind fun p12 =>
      (scanGroups c h (i % qSpan / groupBits)
        (u64 r3 + c.pack.rb r12 + deltaSum (c.pack.rd r12) (i % l12Span / qSpan))
        (u64 p3 + c.pack.pb p12 + deltaSum (c.pack.pd p12) (i % l12Span / qSpan))).bind (lastGroup c h i) := rfl

/-- The class field of the codeword at `pos` (R62). -/
def groupClass (c : Ctx) (st : Store) (n pos : Nat) : Nat := bitsValue (bodyBit c st n) pos 4

/-- The offset field of the codeword at `pos` (R62). -/
def groupOffset (c : Ctx) (st : Store) (n pos : Nat) : Nat :=
  bitsValue (bodyBit c st n) (pos + 4) (c.rom.offsetBits (groupClass c st n pos))

/-- The count up to bit `i` in the group at `x.2`, after `x.1` ones before it (R161). -/
def rankThrough (c : Ctx) (st : Store) (n i : Nat) (x : Nat × Nat) : Nat :=
  x.1 + smallRank (c.rom.pattern (groupClass c st n x.2) (groupOffset c st n x.2)) (i % groupBits + 1)

/-- What the checks on the last group decide (R161, R222 (c), (d), (e)). -/
def lastGroupOutcome (c : Ctx) (st : Store) (n i : Nat) (x : Nat × Nat) : Except ErrorKind Nat :=
  if c.dictWords ≤ (headerOf n).body + (x.2 + 3 + c.rom.offsetBits (groupClass c st n x.2)) / 64 ∨
      c.rom.entries (groupClass c st n x.2) ≤ groupOffset c st n x.2 ∨ i + 1 < rankThrough c st n i x
  then .error .corruptDictionary
  else .ok (rankThrough c st n i x)

/-- The count and the body offset at the group that holds bit `i`, as index arrays and codewords stand (R161). -/
def rankCursor (c : Ctx) (st : Store) (n i : Nat) : Nat × Nat :=
  (quarterRank c st n i
      + (scannedGroups c.rom (bodyBit c st n) (quarterPos c st n i) (i % qSpan / groupBits)).1,
    (scannedGroups c.rom (bodyBit c st n) (quarterPos c st n i) (i % qSpan / groupBits)).2)

theorem lastGroup_ends {c : Ctx} {st : Store} (hq : st.quiet (c.dictAddr 0) (8 * c.dictWords))
    (hrom : c.rom.wellFormed = true) (n i : Nat) (x : Nat × Nat) :
    (lastGroup c (headerOf n) i x).Ends st (lastGroupOutcome c st n i x) := by
  have hw : c.rom.offsetBits (groupClass c st n x.2) ≤ 64 :=
    (offsetBits_le hrom ((classField_le _ _).trans (by decide))).trans (by decide)
  unfold lastGroup lastGroupOutcome
  by_cases hcls : (headerOf n).body + (x.2 + 3) / 64 < c.dictWords
  case neg =>
    rw [if_pos (.inl (by omega))]
    exact (bodyField_ends_error hq n (by decide) (Nat.not_lt.mp hcls)).bind_error _
  case pos =>
    refine (bodyField_ends_ok hq n (w := classBits) (by decide) (by decide) hcls).bind_ok ?_
    have hpat := groupPattern_ends hq n x.2 hw hcls
    rw [← groupOffset] at hpat
    split at hpat
    case isTrue hbad =>
      rw [if_pos (hbad.imp_right Or.inl)]
      exact hpat.bind_error _
    case isFalse hgood =>
      refine hpat.bind_ok ?_
      rw [← rankThrough]
      split
      case isTrue hr =>
        rw [if_pos (.inr (.inr hr))]
        exact Engine.raise_ends _ st
      case isFalse hr =>
        rw [if_neg (by tauto)]
        exact Engine.pure_ends _ st

/-- An index word of an accepted header lies inside the view and answers (R59). -/
theorem HeaderOk.indexWord_ends {c : Ctx} {st : Store} {n : Nat} (h : HeaderOk c st n) {j : Nat}
    (hj : j < (headerOf n).body) : (dictWord c j).Ends st (.ok (dictEntry c st j)) :=
  (dictWord_endsAfter (hj.trans_le h.fits) (quiet_dictAddr h.quiet (hj.trans_le h.fits))).ends

/-- `Rank1Core` on an accepted header, whatever the other words are (R161, R222). -/
theorem rank1Core_ends {c : Ctx} {st : Store} {n i : Nat} (h : HeaderOk c st n) (hrom : c.rom.wellFormed = true)
    (hi : i < n) :
    (rank1Core c (headerOf n) i).Ends st (lastGroupOutcome c st n i (rankCursor c st n i)) := by
  have h3 : i / l3Span ≤ n / l3Span := Nat.div_le_div_right hi.le
  have h12 : i / l12Span ≤ n / l12Span := Nat.div_le_div_right hi.le
  have hbody : (headerOf n).body = 1 + 2 * (headerOf n).l3N + 2 * (headerOf n).l12N := rfl
  have hl3 : i / l3Span < (headerOf n).l3N := Nat.lt_succ_of_le h3
  have hl12 : i / l12Span < (headerOf n).l12N := Nat.lt_succ_of_le h12
  rw [rank1Core_eq]
  refine (h.indexWord_ends (by rw [Header.rankL3At]; omega)).bind_ok ?_
  refine (h.indexWord_ends (by rw [Header.posL3At]; omega)).bind_ok ?_
  refine (h.indexWord_ends (by rw [Header.rankL12At]; omega)).bind_ok ?_
  refine (h.indexWord_ends (by rw [Header.posL12At]; omega)).bind_ok ?_
  rcases scanGroups_ends h.quiet n (quarterRank c st n i) (quarterPos c st n i) (i % qSpan / groupBits) with
    hscan | ⟨hscan, hpast⟩
  · exact hscan.bind_ok (lastGroup_ends h.quiet hrom n i _)
  · have hout : lastGroupOutcome c st n i (rankCursor c st n i) = .error .corruptDictionary :=
      if_pos (.inl (hpast.trans (by simp only [rankCursor]; omega)))
    rw [hout]
    exact hscan.bind_error _

/-- RANK1 and RANK0 of an index below `n` make the same reads and end with the outcome of `Rank1Core` (R160, R162). -/
theorem rankCommands_endAfter {c : Ctx} {st : Store} {n i : Nat} (h : HeaderOk c st n) (hrom : c.rom.wellFormed = true)
    (harg : c.arg0S = i) (hi : i < n) :
    ∃ d, (rank1Cmd c).EndsAfter st d ((lastGroupOutcome c st n i (rankCursor c st n i)).map zext64) ∧
      (rank0Cmd c).EndsAfter st d
        ((lastGroupOutcome c st n i (rankCursor c st n i)).map fun r => zext64 (i + 1 - r)) := by
  obtain ⟨d, hd⟩ := rank1Core_ends h hrom hi
  have h0 : 0 ≤ c.arg0S := by omega
  have hnat : c.arg0S.toNat = i := by omega
  have hn : ¬ (headerOf n).n ≤ i := Nat.not_le.mpr hi
  refine ⟨1 + d, ?_, ?_⟩
  · rw [rank1Cmd_of_nonneg h0, hnat]
    refine h.dictHeader_endsAfter.bind_ok ?_
    rw [if_neg hn]
    exact hd.bind_pure zext64
  · rw [rank0Cmd_of_nonneg h0, hnat]
    refine h.dictHeader_endsAfter.bind_ok ?_
    rw [if_neg hn]
    exact hd.bind_pure fun r => zext64 (i + 1 - r)

/-- On an index below `n` RANK1 and RANK0 both end with CorruptDictionary, or both succeed, as the last group's checks
decide (R160, R162, R222). -/
theorem exec_rank_of_headerOk {s : State} {n i : Nat} (h : HeaderOk s.ctx s.store n) (hrom : s.rom.wellFormed = true)
    (harg : s.ctx.arg0S = i) (hi : i < n) :
    (lastGroupOutcome s.ctx s.store n i (rankCursor s.ctx s.store n i) = .error .corruptDictionary →
      s.endsCorrupt .rank1 ∧ s.endsCorrupt .rank0) ∧
    ∀ r, lastGroupOutcome s.ctx s.store n i (rankCursor s.ctx s.store n i) = .ok r →
      ∃ k, exec .rank1 s = .next (s.succeeds (zext64 r) k) ∧
        exec .rank0 s = .next (s.succeeds (zext64 (i + 1 - r)) k) := by
  obtain ⟨k, h1, h0⟩ := rankCommands_endAfter h hrom harg hi
  refine ⟨fun he => ?_, fun r hr => ?_⟩
  · rw [he] at h1 h0
    exact ⟨⟨k, exec_failsWith_of_endsAfter h1⟩, ⟨k, exec_failsWith_of_endsAfter h0⟩⟩
  · rw [hr] at h1 h0
    exact ⟨k, exec_succeeds_of_endsAfter h1, exec_succeeds_of_endsAfter h0⟩

/-- Settles O51: the header's checks by `dictHeader`'s outcome, the codeword's by following `Rank1Core` through the index
words, the groups before the last and the last group. -/
theorem dictionaryChecksComeFirst : Obligations.DictionaryChecksComeFirst := by
  unfold Obligations.DictionaryChecksComeFirst
  refine ⟨fun i s hi h0 => ⟨exec_of_badView hi h0, fun hv hq => ⟨exec_of_badHeader hi h0 hv hq,
    fun hs hb hn hrank => exec_of_indexBeyond hrank h0 hv hq hs hb hn⟩⟩, ?_⟩
  intro s n i pos cls w o r h hrom harg hi hpos hcls hw ho hr
  obtain ⟨hcorrupt, hok⟩ := exec_rank_of_headerOk h hrom harg hi
  have hout : lastGroupOutcome s.ctx s.store n i (rankCursor s.ctx s.store n i) =
      if s.ctx.dictWords ≤ (headerOf n).body + (pos + 3 + w) / 64 ∨ s.rom.entries cls ≤ o ∨ i + 1 < r
      then .error .corruptDictionary else .ok r := by
    subst hpos hcls hw ho hr
    rfl
  rw [hout] at hcorrupt hok
  refine ⟨fun hpast => hcorrupt (if_pos (.inl hpast)), fun hin => ⟨fun hbad => hcorrupt (if_pos (.inr hbad)),
    fun hentry hsum => hok r (if_neg ?_)⟩⟩
  simp only [not_or, Nat.not_le, Nat.not_lt]
  exact ⟨hin, hentry, hsum⟩

end Sys2Proof.Machine
end

section
/-! SUPPORT. Every command is built from values, errors and reads by sequencing (R12, R53): what those parts all have, every
command has. -/

namespace Sys2Proof.Machine

/-! ### Computations built from values, errors in `es` and reads -/

/-- The computation is sequenced from values, errors of `es` that record 0, and reads, whose StorageIO is in `es` (R12). -/
inductive Engine.Built (es : List ErrorKind) : {α : Type} → Engine α → Prop where
  | pure {α : Type} (v : α) : Engine.Built es (Engine.pure v)
  | raise {α : Type} {e : ErrorKind} (he : e ∈ es) (hs : e ≠ .storageIO) :
      Engine.Built es (Engine.raise e : Engine α)
  | memRead (hs : ErrorKind.storageIO ∈ es) (a : Nat) : Engine.Built es (memRead a)
  | bind {α β : Type} {m : Engine α} {f : α → Engine β} (hm : Engine.Built es m) (hf : ∀ v, Engine.Built es (f v)) :
      Engine.Built es (m.bind f)

variable {α : Type} {es : List ErrorKind}

theorem Engine.Built.ite {p : Prop} [Decidable p] {m m' : Engine α} (h : m.Built es) (h' : m'.Built es) :
    (if p then m else m').Built es := by
  split
  · exact h
  · exact h'

theorem Engine.Built.raisesOnly {m : Engine α} (h : m.Built es) : m.RaisesOnly es := by
  induction h with
  | pure v => exact Engine.RaisesOnly.pure v es
  | raise he _ => exact Engine.RaisesOnly.raise he
  | memRead hs a => exact memRead_raisesOnly hs a
  | bind _ _ ihm ihf => exact ihm.bind ihf

theorem Engine.Built.readsInOrder {m : Engine α} (h : m.Built es) : m.ReadsInOrder := by
  induction h with
  | pure v => exact Engine.ReadsInOrder.pure v
  | raise _ _ => exact Engine.ReadsInOrder.raise _
  | memRead _ a => exact memRead_readsInOrder a
  | bind _ _ ihm ihf => exact ihm.bind ihf

/-- A computation ends with StorageIO at a read only: the last one it makes, whose address it records (R223). -/
theorem Engine.Built.storageIO_of_failing_read {m : Engine α} (h : m.Built es) {st : Store} {k k' : Nat} {info : Word}
    (hr : m st k = .err .storageIO info k') :
    ∃ a j, st.respond a j = .error ∧ info = BitVec.ofNat 64 a ∧ k ≤ j ∧ k' = j + 1 := by
  induction h generalizing k with
  | pure v => cases hr
  | raise _ hs =>
    cases hr
    exact absurd rfl hs
  | memRead _ a =>
    rw [memRead_run] at hr
    split at hr
    next hfail =>
      cases hr
      exact ⟨a, k, if_pos hfail, rfl, le_refl _, rfl⟩
    · cases hr
  | bind hm _ ihm ihf =>
    rcases Engine.bind_eq_err.mp hr with hfirst | ⟨v, k₁, hret, hthen⟩
    · exact ihm hfirst
    · obtain ⟨a, j, herr, hinfo, hj, hk'⟩ := ihf v hthen
      have hk : k ≤ k₁ := by simpa [hret, Run.reads] using (hm.readsInOrder st k).1
      exact ⟨a, j, herr, hinfo, hk.trans hj, hk'⟩

/-! ### The commands' parts -/

section
variable (hrange : ErrorKind.outOfRange ∈ es)
include hrange

theorem built_raise_outOfRange : (Engine.raise .outOfRange : Engine α).Built es := .raise hrange (by decide)

theorem longViewCheck_built (c : Ctx) : (longViewCheck c).Built es := .ite (.pure _) (built_raise_outOfRange hrange)

theorem dictViewCheck_built (c : Ctx) : (dictViewCheck c).Built es := .ite (.pure _) (built_raise_outOfRange hrange)

theorem romOffsetbitsCmd_built (c : Ctx) : (romOffsetbitsCmd c).Built es :=
  .ite (built_raise_outOfRange hrange) (.pure _)

theorem romDecodeCmd_built (c : Ctx) : (romDecodeCmd c).Built es :=
  .ite (built_raise_outOfRange hrange) (.ite (built_raise_outOfRange hrange) (.pure _))

theorem romSmallrankCmd_built (c : Ctx) : (romSmallrankCmd c).Built es :=
  .ite (built_raise_outOfRange hrange) (.ite (built_raise_outOfRange hrange) (.pure _))

end

theorem field_built {read : Nat → Engine Word} (h : ∀ j, (read j).Built es) (base sb w : Nat) :
    (field read base sb w).Built es :=
  .bind (h _) fun _ => .ite (.pure _) (.bind (h _) fun _ => .pure _)

theorem bsearchGT_built {f : Nat → Engine Int} (h : ∀ m, (f m).Built es) (cnt : Nat) (val : Int) :
    (bsearchGT cnt f val).Built es := by
  have hloop : ∀ bound lo hi, (bsearchLoop f val bound lo hi).Built es := by
    intro bound
    induction bound with
    | zero => exact fun _ _ => .pure _
    | succ bound ih => exact fun _ _ => .ite (.bind (h _) fun _ => .ite (ih _ _) (ih _ _)) (.pure _)
  exact .bind (hloop _ _ _) fun _ => .pure _

section
variable (hrange : ErrorKind.outOfRange ∈ es) (hio : ErrorKind.storageIO ∈ es)
include hrange hio

theorem getbitCmd_built (c : Ctx) : (getbitCmd c).Built es :=
  .bind (longViewCheck_built hrange c) fun _ =>
    .ite (built_raise_outOfRange hrange) (.bind (.memRead hio _) fun _ => .pure _)

theorem getfieldCmd_built (c : Ctx) : (getfieldCmd c).Built es :=
  .ite (built_raise_outOfRange hrange) <| .bind (longViewCheck_built hrange c) fun _ =>
    .ite (built_raise_outOfRange hrange) (.bind (field_built (fun _ => .memRead hio _) _ _ _) fun _ => .pure _)

theorem getfieldxCmd_built (c : Ctx) : (getfieldxCmd c).Built es :=
  .ite (built_raise_outOfRange hrange) <| .ite (built_raise_outOfRange hrange) <|
    .bind (longViewCheck_built hrange c) fun _ =>
    .ite (built_raise_outOfRange hrange) (.bind (field_built (fun _ => .memRead hio _) _ _ _) fun _ => .pure _)

omit hrange in
theorem arrayRankLoop_built (c : Ctx) (start : Nat) (key : Int) (bound lo hi : Nat) :
    (arrayRankLoop c start key bound lo hi).Built es := by
  induction bound generalizing lo hi with
  | zero => exact .pure _
  | succ bound ih =>
    exact .ite (.bind (.memRead hio _) fun _ => .ite (.pure _) (.ite (ih _ _) (ih _ _))) (.pure _)

theorem arrayrankCmd_built (c : Ctx) : (arrayrankCmd c).Built es :=
  .bind (longViewCheck_built hrange c) fun _ =>
    .ite (built_raise_outOfRange hrange) (.bind (arrayRankLoop_built hio c _ _ _ _ _) fun _ => .pure _)

end

section
variable (hcorrupt : ErrorKind.corruptDictionary ∈ es) (hio : ErrorKind.storageIO ∈ es)
include hcorrupt

theorem built_raise_corruptDictionary : (Engine.raise .corruptDictionary : Engine α).Built es :=
  .raise hcorrupt (by decide)

theorem bitStage_built (h : Header) (one : Bool) (p : Pattern) (x : Cursor) : (bitStage h one p x).Built es := by
  unfold bitStage
  split
  · exact .ite (built_raise_corruptDictionary hcorrupt) (.pure _)
  · exact built_raise_corruptDictionary hcorrupt

include hio

theorem dictWord_built (c : Ctx) (j : Nat) : (dictWord c j).Built es :=
  .ite (built_raise_corruptDictionary hcorrupt) (.memRead hio _)

theorem bodyField_built (c : Ctx) (h : Header) (pos w : Nat) : (bodyField c h pos w).Built es :=
  field_built (dictWord_built hcorrupt hio c) _ _ _

theorem groupCount_built (c : Ctx) (h : Header) (pos : Nat) : (groupCount c h pos).Built es :=
  .bind (bodyField_built hcorrupt hio c h _ _) fun _ =>
    .ite (.bind (bodyField_built hcorrupt hio c h _ _) fun _ => .pure _) (.pure _)

theorem groupPattern_built (c : Ctx) (h : Header) (pos cls : Nat) : (groupPattern c h pos cls).Built es :=
  .bind (.ite (.pure _) (bodyField_built hcorrupt hio c h _ _)) fun _ =>
    .ite (built_raise_corruptDictionary hcorrupt) (.pure _)

theorem scanGroups_built (c : Ctx) (h : Header) (groups res pos : Nat) : (scanGroups c h groups res pos).Built es := by
  induction groups generalizing res pos with
  | zero => exact .pure _
  | succ g ih => exact .bind (groupCount_built hcorrupt hio c h _) fun _ => ih _ _

theorem rank1Core_built (c : Ctx) (h : Header) (i : Nat) : (rank1Core c h i).Built es :=
  .bind (dictWord_built hcorrupt hio c _) fun _ => .bind (dictWord_built hcorrupt hio c _) fun _ =>
  .bind (dictWord_built hcorrupt hio c _) fun _ => .bind (dictWord_built hcorrupt hio c _) fun _ =>
  .bind (scanGroups_built hcorrupt hio c h _ _ _) fun _ => .bind (bodyField_built hcorrupt hio c h _ _) fun _ =>
  .bind (groupPattern_built hcorrupt hio c h _ _) fun _ => .ite (built_raise_corruptDictionary hcorrupt) (.pure _)

theorem totalOnes_built (c : Ctx) (h : Header) : (totalOnes c h).Built es :=
  .ite (.pure _) (rank1Core_built hcorrupt hio c h _)

theorem l3Count_built (c : Ctx) (h : Header) (one : Bool) (m : Nat) : (l3Count c h one m).Built es :=
  .bind (dictWord_built hcorrupt hio c _) fun _ => .pure _

theorem l12Count_built (c : Ctx) (h : Header) (one : Bool) (lo m : Nat) : (l12Count c h one lo m).Built es :=
  .bind (dictWord_built hcorrupt hio c _) fun _ => .pure _

theorem l3Stage_built (c : Ctx) (h : Header) (one : Bool) (val : Int) : (l3Stage c h one val).Built es :=
  .bind (bsearchGT_built (l3Count_built hcorrupt hio c h one) _ _) fun _ =>
  .bind (l3Count_built hcorrupt hio c h one _) fun _ => .bind (dictWord_built hcorrupt hio c _) fun _ =>
  .ite (built_raise_corruptDictionary hcorrupt) (.pure _)

theorem l12Stage_built (c : Ctx) (h : Header) (one : Bool) (l3 : Nat) (val : Int) (pos : Nat) :
    (l12Stage c h one l3 val pos).Built es :=
  .bind (bsearchGT_built (l12Count_built hcorrupt hio c h one _) _ _) fun _ =>
  .bind (l12Count_built hcorrupt hio c h one _ _) fun _ => .bind (dictWord_built hcorrupt hio c _) fun _ =>
  .bind (dictWord_built hcorrupt hio c _) fun _ => .ite (built_raise_corruptDictionary hcorrupt) (.pure _)

theorem groupStage_built (c : Ctx) (h : Header) (one : Bool) (left : Nat) (x : Cursor) :
    (groupStage c h one left x).Built es := by
  induction left generalizing x with
  | zero => exact built_raise_corruptDictionary hcorrupt
  | succ left ih => exact .bind (groupCount_built hcorrupt hio c h _) fun _ => .ite (.pure _) (ih _)

theorem selectStages_built (c : Ctx) (h : Header) (one : Bool) (val : Int) : (selectStages c h one val).Built es :=
  .bind (l3Stage_built hcorrupt hio c h one _) fun _ => .bind (l12Stage_built hcorrupt hio c h one _ _ _) fun _ =>
  .bind (groupStage_built hcorrupt hio c h one _ _) fun _ => .bind (groupPattern_built hcorrupt hio c h _ _) fun _ =>
  bitStage_built hcorrupt h one _ _

variable (hrange : ErrorKind.outOfRange ∈ es)
include hrange

theorem dictHeader_built (c : Ctx) : (dictHeader c).Built es :=
  .bind (dictViewCheck_built hrange c) fun _ => .bind (dictWord_built hcorrupt hio c _) fun _ =>
  .ite (built_raise_corruptDictionary hcorrupt) (.ite (built_raise_corruptDictionary hcorrupt) (.pure _))

theorem rank1Cmd_built (c : Ctx) : (rank1Cmd c).Built es :=
  .ite (.pure _) <| .bind (dictHeader_built hcorrupt hio hrange c) fun h =>
    .ite (built_raise_outOfRange hrange) (.bind (rank1Core_built hcorrupt hio c h _) fun _ => .pure _)

theorem rank0Cmd_built (c : Ctx) : (rank0Cmd c).Built es :=
  .ite (.pure _) <| .bind (dictHeader_built hcorrupt hio hrange c) fun h =>
    .ite (built_raise_outOfRange hrange) (.bind (rank1Core_built hcorrupt hio c h _) fun _ => .pure _)

theorem selectCore_built (one : Bool) (c : Ctx) : (selectCore one c).Built es :=
  .ite (built_raise_outOfRange hrange) <| .bind (dictHeader_built hcorrupt hio hrange c) fun h =>
  .bind (totalOnes_built hcorrupt hio c h) fun _ => .ite (built_raise_outOfRange hrange) <|
  .bind (selectStages_built hcorrupt hio c h one _) fun _ => .pure _

end

/-- Every command is built from values, reads and the errors its rule lists. -/
theorem commandOf_built (i : Instr) (c : Ctx) : (commandOf i c).Built (allowedErrors i) := by
  cases i with
  | getbit => exact getbitCmd_built (by decide) (by decide) c
  | getfield => exact getfieldCmd_built (by decide) (by decide) c
  | getfieldx => exact getfieldxCmd_built (by decide) (by decide) c
  | arrayrank => exact arrayrankCmd_built (by decide) (by decide) c
  | rank1 => exact rank1Cmd_built (by decide) (by decide) (by decide) c
  | rank0 => exact rank0Cmd_built (by decide) (by decide) (by decide) c
  | select1 => exact selectCore_built (by decide) (by decide) (by decide) true c
  | select0 => exact selectCore_built (by decide) (by decide) (by decide) false c
  | romOffsetbits => exact romOffsetbitsCmd_built (by decide) c
  | romDecode => exact romDecodeCmd_built (by decide) c
  | romSmallrank => exact romSmallrankCmd_built (by decide) c

end Sys2Proof.Machine
end

section
/-! SUPPORT. What a completion, an input and a whole step leave, each said once (R23, R50, R224, R231). -/

namespace Sys2Proof.Machine

/-! ### Completion (R224): `State.complete` -/

@[simp] theorem State.complete_eng (s : State) (r : Run Word) : (s.complete r).eng = .idle := by cases r <;> rfl
@[simp] theorem State.complete_done (s : State) (r : Run Word) : (s.complete r).done = true := by cases r <;> rfl
@[simp] theorem State.complete_ovr (s : State) (r : Run Word) : (s.complete r).ovr = s.ovr := by cases r <;> rfl
@[simp] theorem State.complete_rom (s : State) (r : Run Word) : (s.complete r).rom = s.rom := by cases r <;> rfl
@[simp] theorem State.complete_pack (s : State) (r : Run Word) : (s.complete r).pack = s.pack := by cases r <;> rfl
@[simp] theorem State.complete_addrBits (s : State) (r : Run Word) : (s.complete r).addrBits = s.addrBits := by
  cases r <;> rfl
@[simp] theorem State.complete_store (s : State) (r : Run Word) : (s.complete r).store = s.store := by cases r <;> rfl

/-- A completion writes RESULT, ERRINFO and STATUS and no other register (R224). -/
theorem State.complete_readReg (s : State) (r : Run Word) {q : Reg} (h : q ∉ [Reg.result, .errinfo, .status]) :
    (s.complete r).readReg q = s.readReg q := by
  cases r <;> cases q <;> simp [State.complete, State.readReg, State.ctrlWord] at h ⊢

/-- How the command in flight ends: as its computation does; an illegal word with IllegalCommand and no read (R83, R225). -/
def State.commandRun (s : State) : Run Word :=
  match decode s.snap.cmd with
  | .command i => commandOf i s.ctx s.store s.reads
  | .illegal _ => .err .illegalCommand 0 s.reads

theorem finishCommand_eq (s : State) : s.finishCommand = .next (s.complete s.commandRun) := by
  simp only [State.finishCommand, State.commandRun]
  cases decode s.snap.cmd with
  | command i => exact exec_eq i s
  | illegal y => rfl

/-- The command in flight records an address with StorageIO alone (R33). -/
theorem commandRun_info {s : State} {e : ErrorKind} {info : Word} {k : Nat} (h : s.commandRun = .err e info k)
    (he : e ≠ .storageIO) : info = 0 := by
  simp only [State.commandRun] at h
  cases hd : decode s.snap.cmd with
  | command i =>
    rw [hd] at h
    exact ((commandOf_built i s.ctx).raisesOnly s.store s.reads e info k h).2 he
  | illegal y =>
    rw [hd] at h
    cases h
    rfl

/-! ### The engine's part of a step -/

theorem eng_cases (s : State) : s.eng = .idle ∨ s.eng = .busy := by
  cases s.eng <;> simp

/-- A command in flight with no step to go is due. -/
theorem not_noCompletionDue {s : State} (hb : s.eng = .busy) (hw : s.wait = 0) : ¬ s.noCompletionDue := by
  simp [State.noCompletionDue, hb, hw]

theorem advance_waiting {s : State} {w : Nat} (h : s.wait = w + 1) : s.advance = .next { s with wait := w } := by
  simp [State.advance, h]

theorem advance_due {s : State} (h : s.wait = 0) : s.advance = .next (s.complete s.commandRun) := by
  simp [State.advance, h, finishCommand_eq]

/-- What a step that goes on has done: its input, and then nothing but the passing of the step, or, where a command was
due and was not reset, its completion (R231). -/
theorem step_next {s t : State} (h : step s = .next t) :
    ∃ u, s.takeInput.applyInput s.nextInput = .next u ∧
      ((s.nextInput = .reset ∨ s.noCompletionDue) ∧ (∃ w, t = { u with wait := w }) ∨
        s.nextInput ≠ .reset ∧ s.eng = .busy ∧ s.wait = 0 ∧ t = u.complete u.commandRun) := by
  rcases cycle_cases s with ⟨u, hu, ⟨hb, hr⟩, hs⟩ | ⟨u, hu, hnot, hs⟩ | ⟨r, _, hs⟩
  · rw [busy_iff] at hb
    obtain ⟨-, -, hwait, -⟩ := applyInput_busy_frame (s := s.takeInput) hb hr hu
    refine ⟨u, hu, ?_⟩
    rw [hs] at h
    cases hw : s.wait with
    | zero =>
      rw [advance_due (hwait.trans hw)] at h
      cases h
      exact .inr ⟨hr, hb, rfl, rfl⟩
    | succ w =>
      rw [advance_waiting (hwait.trans hw)] at h
      cases h
      exact .inl ⟨.inr (.inr (by omega)), w, rfl⟩
  · rw [hs] at h
    cases h
    refine ⟨t, hu, .inl ⟨?_, t.wait, rfl⟩⟩
    rcases eng_cases s with hi | hb
    · exact .inr (.inl hi)
    · exact .inl (not_not.mp fun hr => hnot ⟨busy_iff.mpr hb, hr⟩)
  · rw [hs] at h
    cases h

/-! ### The effect of an input -/

theorem applyInput_write_next {s t : State} {off : BitVec 8} {n : Nat} {v : Word} :
    s.applyInput (.write off n v) = .next t ↔ hostAccessWellFormed off n = true ∧ s.writeOffset off v = t := by
  simp only [State.applyInput]
  split <;> simp [*]

theorem applyInput_read_next {s t : State} {off : BitVec 8} {n : Nat} :
    s.applyInput (.read off n) = .next t ↔
      hostAccessWellFormed off n = true ∧ { s with readData := some (s.readOffset off) } = t := by
  simp only [State.applyInput]
  split <;> simp [*]

theorem applyInput_store_next {s t : State} {a : Word} {b : Byte} :
    s.applyInput (.store a b) = .next t ↔
      a.toNat < addrSpace s.addrBits ∧ { s with store := s.store.write s.busy a b } = t := by
  simp only [State.applyInput]
  split <;> simp [*]

@[simp] theorem applyInput_readFail (s : State) (l : List ReadFail) :
    s.applyInput (.readFail l) = .next { s with store := { s.store with failing := l } } := rfl

@[simp] theorem applyInput_volatile (s : State) (l : List Nat) :
    s.applyInput (.volatile l) = .next { s with store := { s.store with volatile := l } } := rfl

theorem regAt_eq_some {off : BitVec 8} {r : Reg} : regAt off = some r ↔ off = regOffset r := by
  constructor
  · intro h
    have hfound : (regOffset r == off) = true := List.find?_some (p := fun q => regOffset q == off) h
    exact (eq_of_beq hfound).symm
  · rintro rfl
    exact regAt_regOffset r

/-- A host write of an offset writes the register there, or is ignored where there is none (R22, R24). -/
theorem writeOffset_cases (s : State) (off : BitVec 8) (v : Word) :
    (∃ r, off = regOffset r ∧ s.writeOffset off v = s.writeReg v r) ∨
      (∀ r, off ≠ regOffset r) ∧ s.writeOffset off v = s := by
  simp only [State.writeOffset]
  cases h : regAt off with
  | some r => exact .inl ⟨r, regAt_eq_some.mp h, rfl⟩
  | none =>
    refine .inr ⟨fun r hr => ?_, rfl⟩
    rw [regAt_eq_some.mpr hr] at h
    cases h

end Sys2Proof.Machine
end

section
/-! SUPPORT and the proof about the invariant of the block (R32, R33, R38, R40, R50, R107, R255). -/

namespace Sys2Proof.Machine

/-- Issue keeps the invariant: it clears what must be clear while BUSY (R38). -/
theorem State.Inv.issue {s : State} (h : s.Inv) (w : Word) (l : Nat) : (s.issue w l).Inv :=
  { h with
    inFlight := fun _ => ⟨rfl, rfl, rfl⟩
    errinfo := fun _ => rfl
    result := fun hne => absurd rfl hne }

theorem State.Inv.ackStatus {s : State} (h : s.Inv) (v : Word) : (s.ackStatus v).Inv :=
  { h with
    inFlight := fun hb => by
      obtain ⟨hdone, herr, hinfo⟩ := h.inFlight hb
      exact ⟨by simp [hdone], herr, hinfo⟩ }

theorem State.Inv.writeCmd {s : State} (h : s.Inv) (w : Word) : (s.writeCmd w).Inv := by
  cases he : s.eng with
  | busy =>
    rw [writeCmd_busy he]
    exact { h with }
  | idle =>
    rw [writeCmd_idle he]
    exact { h.issue w (issueLatency w s.draws) with }

theorem State.Inv.writeReg {s : State} (h : s.Inv) (v : Word) (r : Reg) : (s.writeReg v r).Inv := by
  cases r with
  | cmd => exact h.writeCmd v
  | status => exact h.ackStatus v
  | _ => exact { h with }

theorem State.Inv.writeOffset {s : State} (h : s.Inv) (off : BitVec 8) (v : Word) : (s.writeOffset off v).Inv := by
  rcases writeOffset_cases s off v with ⟨r, _, hw⟩ | ⟨_, hw⟩
  · rw [hw]
    exact h.writeReg v r
  · rwa [hw]

/-- A host store inside the address space keeps the backing store canonical and inside it (R50). -/
theorem State.Inv.storeWrite {s : State} (h : s.Inv) {a : Word} (ha : a.toNat < addrSpace s.addrBits) (f : Bool) (b : Byte) :
    State.Inv { s with store := s.store.write f a b } :=
  { h with
    memory := Store.write_wf f a b h.memory
    addresses := fun x hx => by
      rcases Memory.mem_set hx with rfl | hx
      · exact ha
      · exact h.addresses x hx }

/-- `rst` leaves every register at its reset value, and the parameters and the backing store as they are (R250). -/
theorem State.Inv.resetBlock {s : State} (h : s.Inv) : s.resetBlock.Inv :=
  { h with
    inFlight := nofun
    errinfo := fun _ => rfl
    result := fun hne => absurd rfl hne }

/-- No input breaks the invariant. -/
theorem State.Inv.applyInput {s t : State} (h : s.Inv) {e : Input} (ht : s.applyInput e = .next t) : t.Inv := by
  cases e with
  | write off n v =>
    obtain ⟨_, rfl⟩ := applyInput_write_next.mp ht
    exact h.writeOffset off v
  | read off n =>
    obtain ⟨_, rfl⟩ := applyInput_read_next.mp ht
    exact { h with }
  | store a b =>
    obtain ⟨ha, rfl⟩ := applyInput_store_next.mp ht
    exact h.storeWrite ha s.busy b
  | reset =>
    cases ht
    exact h.resetBlock
  | _ =>
    cases ht
    exact { h with }

/-- A completion whose error records an address with StorageIO alone keeps the invariant (R32, R33). -/
theorem State.Inv.complete {s : State} (h : s.Inv) {r : Run Word}
    (hinfo : ∀ e info k, r = .err e info k → e ≠ .storageIO → info = 0) : (s.complete r).Inv := by
  cases r with
  | ret v k =>
    exact { h with
      inFlight := nofun
      errinfo := fun _ => rfl
      result := fun hne => absurd rfl hne }
  | err e info k =>
    exact { h with
      inFlight := nofun
      errinfo := fun hne => hinfo e info k rfl fun he => hne (congrArg some he)
      result := fun _ => rfl }

/-- Settles O20: the step's input keeps the invariant, and so does the passing of the step or the completion after it. -/
theorem everyStepKeepsTheInvariant : Obligations.EveryStepKeepsTheInvariant := by
  unfold Obligations.EveryStepKeepsTheInvariant
  intro s t h hstep
  obtain ⟨u, hu, hengine⟩ := step_next hstep
  have huInv : u.Inv := State.Inv.applyInput (s := s.takeInput) { h with } hu
  rcases hengine with ⟨_, w, rfl⟩ | ⟨_, _, _, rfl⟩
  · exact { huInv with }
  · exact huInv.complete fun e info k => commandRun_info

end Sys2Proof.Machine
end

section
/-! SUPPORT and proofs about issue and the steps of a command in flight (R26, R28, R38, R39, R52, R84, R225, R261). -/

namespace Sys2Proof.Machine

/-! ### A step from its input's effect -/

theorem finishCommand_command {s : State} {i : Instr} (h : decode s.snap.cmd = .command i) :
    s.finishCommand = exec i s := by
  simp only [State.finishCommand, h]

theorem finishCommand_illegal {s : State} {y : Illegal} (h : decode s.snap.cmd = .illegal y) :
    s.finishCommand = .next (s.completeError .illegalCommand 0) := by
  simp only [State.finishCommand, h]

theorem step_waiting {s u : State} {n : Nat} (hb : s.eng = .busy) (hw : s.wait = n + 1) (hr : s.nextInput ≠ .reset)
    (hu : s.takeInput.applyInput s.nextInput = .next u) : step s = .next { u with wait := n } := by
  obtain ⟨-, -, hwait, -⟩ := applyInput_busy_frame (s := s.takeInput) hb hr hu
  rw [step_busy hb hr hu, advance_waiting (hwait.trans hw)]

theorem step_due {s u : State} (hb : s.eng = .busy) (hw : s.wait = 0) (hr : s.nextInput ≠ .reset)
    (hu : s.takeInput.applyInput s.nextInput = .next u) : step s = u.finishCommand := by
  obtain ⟨-, -, hwait, -⟩ := applyInput_busy_frame (s := s.takeInput) hb hr hu
  rw [step_busy hb hr hu, advance_due (hwait.trans hw), finishCommand_eq]

/-- A pending register write is the effect of the step's input (R23, R26). -/
theorem takeInput_applyInput_write {s : State} {rest : List Input} {r : Reg} {v : Word}
    (h : s.inputs = .write (regOffset r) 8 v :: rest) :
    s.takeInput.applyInput s.nextInput = .next (State.writeReg { s with inputs := rest, readData := none } v r) := by
  have hwf : hostAccessWellFormed (regOffset r) 8 = true := by cases r <;> decide
  rw [nextInput_cons h, takeInput_cons h, applyInput_write hwf, writeOffset_regOffset]

theorem nextInput_write_ne_reset {s : State} {rest : List Input} {off : BitVec 8} {n : Nat} {v : Word}
    (h : s.inputs = .write off n v :: rest) : s.nextInput ≠ .reset := by
  simp [nextInput_cons h]

/-- Settles O4: no input but `rst` touches the snapshot or the time left, so the completion decodes the word in flight. -/
theorem stepRunsTheDecodedCommand : Obligations.StepRunsTheDecodedCommand := by
  unfold Obligations.StepRunsTheDecodedCommand
  intro s u hb hw hr hu
  obtain ⟨-, hsnap, -⟩ := applyInput_busy_frame (s := s.takeInput) hb hr hu
  rw [step_due hb hw hr hu]
  refine ⟨fun i hi => finishCommand_command ?_, fun y hy => finishCommand_illegal (y := y) ?_⟩
  · rwa [hsnap]
  · rwa [hsnap]

/-! ### Issue -/

/-- The step of a CMD write while IDLE is the issue of its word (R28, R38). -/
theorem step_issue {s : State} {w : Word} {rest : List Input} (hi : s.eng = .idle)
    (hin : s.inputs = .write 0x08 8 w :: rest) :
    step s = .next { State.issue { s with inputs := rest, readData := none } w (issueLatency w s.draws) with
      draws := s.draws + 1 } := by
  rw [step_idle hi, takeInput_applyInput_write (r := .cmd) hin]
  exact congrArg Host.Outcome.next (writeCmd_idle (s := { s with inputs := rest, readData := none }) hi w)

/-- Settles O5: the step is the issue of the word, field by field. -/
theorem issueTakesTheSnapshot : Obligations.IssueTakesTheSnapshot := by
  unfold Obligations.IssueTakesTheSnapshot
  intro s w rest hi hin
  exact ⟨_, step_issue hi hin, by simp [State.snapshot]⟩

/-- Settles O6: the write sets OVR, and the engine's part of the step counts down. -/
theorem cmdWriteWhileBusyIsDropped : Obligations.CmdWriteWhileBusyIsDropped := by
  unfold Obligations.CmdWriteWhileBusyIsDropped
  intro s w n rest hb hw hin
  rw [step_waiting hb hw (nextInput_write_ne_reset hin) (takeInput_applyInput_write (r := .cmd) hin)]
  simp only [State.writeReg, writeCmd_busy, hb]

/-! ### From issue to completion -/

theorem decode_encode (i : Instr) : decode (encode i) = .command i := by
  cases i <;> decide

theorem nextInput_nil {s : State} (h : s.inputs = []) : s.nextInput = .idle := by
  simp [State.nextInput, h]

theorem takeInput_nil {s : State} (h : s.inputs = []) : s.takeInput = { s with readData := none } := by
  simp [State.takeInput, h]

/-- With no input pending, a command `n` steps away from its completion completes in the step after them (R52, R262). -/
theorem core_run_in_flight {s : State} {n : Nat} (hb : s.eng = .busy) (hw : s.wait = n) (hin : s.inputs = []) :
    Sys2Proof.core.run (n + 1) s = State.finishCommand { s with wait := 0, readData := none } := by
  have hr : s.nextInput ≠ .reset := by simp [nextInput_nil hin]
  have hu : s.takeInput.applyInput s.nextInput = .next { s with readData := none } := by
    rw [nextInput_nil hin, takeInput_nil hin, applyInput_idle]
  induction n generalizing s with
  | zero =>
    have hsame : { s with wait := 0, readData := none } = { s with readData := none } := by rw [← hw]
    have hstep := (step_due hb hw hr hu).trans (finishCommand_eq _)
    rw [hsame]
    exact (core_run_next hstep 0).trans (finishCommand_eq _).symm
  | succ n ih =>
    rw [core_run_next (step_waiting hb hw hr hu)]
    refine ih (s := { s with wait := n, readData := none }) hb rfl hin ?_ ?_
    · simp [nextInput_nil, hin]
    · simp [nextInput_nil, takeInput_nil, hin]

/-- Settles O10: one step issues the command; its free number of steps and one more complete it. -/
theorem issuedCommandReachesItsCompletion : Obligations.IssuedCommandReachesItsCompletion := by
  unfold Obligations.IssuedCommandReachesItsCompletion
  intro s i hi hin
  have hissue := step_issue hi hin
  set u := { State.issue { s with inputs := [], readData := none } (encode i) (issueLatency (encode i) s.draws) with
    draws := s.draws + 1 }
  have hrun := core_run_in_flight (s := u) rfl rfl rfl
  have hdecode : decode u.snap.cmd = .command i := decode_encode i
  have hexec := finishCommand_command (s := { u with wait := 0, readData := none }) hdecode
  have hnext := finishCommand_eq { u with wait := 0, readData := none }
  exact ⟨u.wait + 1 + 1, _, _, (core_run_next hissue _).trans (hrun.trans hnext), hexec.symm.trans hnext,
    State.complete_done _ _, State.complete_eng _ _, rfl, rfl, rfl, rfl, rfl, rfl, rfl, rfl, rfl⟩

/-! ### Which steps stop -/

/-- Why an input is refused (R23, R50). -/
theorem applyInput_refused {s : State} {e : Input} {r : Refusal} (h : s.applyInput e = .refused r) :
    (∃ off n, r = .undefinedHostAccess off n ∧ ¬(n = 8 ∧ off.toNat % 8 = 0) ∧
      (e = .read off n ∨ ∃ v, e = .write off n v)) ∨
    ∃ a b, r = .noSuchAddress a ∧ e = .store a b ∧ addrSpace s.addrBits ≤ a.toNat := by
  cases e with
  | write off n v =>
    simp only [State.applyInput, hostAccessWellFormed_iff] at h
    split at h
    · cases h
    next hbad =>
      cases h
      exact .inl ⟨off, n, rfl, hbad, .inr ⟨v, rfl⟩⟩
  | read off n =>
    simp only [State.applyInput, hostAccessWellFormed_iff] at h
    split at h
    · cases h
    next hbad =>
      cases h
      exact .inl ⟨off, n, rfl, hbad, .inl rfl⟩
  | store a b =>
    simp only [State.applyInput] at h
    split at h
    · cases h
    next hbad =>
      cases h
      exact .inr ⟨a, b, rfl, rfl, Nat.not_lt.mp hbad⟩
  | _ => cases h

/-- The engine's part of a step goes on in every state (R224, R226). -/
theorem advance_next (s : State) : ∃ t, s.advance = .next t := by
  cases hw : s.wait with
  | zero => exact ⟨_, advance_due hw⟩
  | succ w => exact ⟨_, advance_waiting hw⟩

/-- Settles O13: the engine never stops, so a step stops only with its input. -/
theorem stepStopsOnlyOnUndefinedHostAccess : Obligations.StepStopsOnlyOnUndefinedHostAccess := by
  unfold Obligations.StepStopsOnlyOnUndefinedHostAccess
  intro s
  rcases cycle_cases s with ⟨u, _, _, hs⟩ | ⟨u, _, _, hs⟩ | ⟨r, hr, hs⟩
  · rw [hs]
    exact .inl (advance_next u)
  · exact .inl ⟨u, hs⟩
  · rcases applyInput_refused hr with ⟨off, n, rfl, hbad, he⟩ | ⟨a, b, rfl, he, ha⟩
    · exact .inr (.inl ⟨off, n, hs, hbad, he⟩)
    · exact .inr (.inr ⟨a, b, hs, he, ha⟩)

/-! ### What a command in flight runs on -/

/-- What a completion leaves in RESULT, ERRCODE and ERRINFO, and the count of reads, is fixed by how the computation
ended (R224). -/
theorem State.complete_outputs (s u : State) (r : Run Word) :
    (u.complete r).result = (s.complete r).result ∧ (u.complete r).errcode = (s.complete r).errcode ∧
    (u.complete r).errinfo = (s.complete r).errinfo ∧ (u.complete r).reads = (s.complete r).reads := by
  cases r <;> exact ⟨rfl, rfl, rfl, rfl⟩

/-- While BUSY a host write leaves what the command in flight runs on (R26, R39). -/
theorem writeOffset_busy_frame {s : State} (h : s.eng = .busy) (off : BitVec 8) (v : Word) :
    (s.writeOffset off v).ctx = s.ctx ∧ (s.writeOffset off v).store = s.store ∧
    (s.writeOffset off v).reads = s.reads := by
  rcases writeOffset_cases s off v with ⟨r, _, hw⟩ | ⟨_, hw⟩
  · obtain ⟨-, -, hstore, -, hctx, -⟩ := writeReg_busy_frame h v r
    obtain ⟨-, -, -, -, -, -, hreads, -⟩ := writeReg_frame s v r
    rw [hw]
    exact ⟨hctx, hstore, hreads⟩
  · rw [hw]
    exact ⟨rfl, rfl, rfl⟩

/-- Settles O18: the command runs on the same snapshot, parameters and store, so it ends alike. -/
theorem hostWritesDoNotReachTheCommandInFlight : Obligations.HostWritesDoNotReachTheCommandInFlight := by
  unfold Obligations.HostWritesDoNotReachTheCommandInFlight
  intro i s t off v hb ht
  rw [exec_next] at ht
  subst ht
  obtain ⟨hctx, hstore, hreads⟩ := writeOffset_busy_frame hb off v
  refine ⟨_, exec_eq i _, ?_⟩
  simp only [State.runCommand, hctx, hstore, hreads]
  exact State.complete_outputs _ _ _

/-! ### The parameters -/

theorem applyInput_params {s t : State} {e : Input} (h : s.applyInput e = .next t) :
    t.rom = s.rom ∧ t.pack = s.pack ∧ t.addrBits = s.addrBits := by
  cases e with
  | write off n v =>
    obtain ⟨_, rfl⟩ := applyInput_write_next.mp h
    rcases writeOffset_cases s off v with ⟨r, _, hw⟩ | ⟨_, hw⟩
    · obtain ⟨hrom, hpack, -, -, -, -, -, haddr⟩ := writeReg_frame s v r
      rw [hw]
      exact ⟨hrom, hpack, haddr⟩
    · rw [hw]
      exact ⟨rfl, rfl, rfl⟩
  | read off n =>
    obtain ⟨_, rfl⟩ := applyInput_read_next.mp h
    exact ⟨rfl, rfl, rfl⟩
  | store a b =>
    obtain ⟨_, rfl⟩ := applyInput_store_next.mp h
    exact ⟨rfl, rfl, rfl⟩
  | _ =>
    cases h
    exact ⟨rfl, rfl, rfl⟩

/-- Settles O21: neither the step's input nor the engine's part touches the parameters. -/
theorem romAndPackNeverChange : Obligations.RomAndPackNeverChange := by
  unfold Obligations.RomAndPackNeverChange
  intro s t h
  obtain ⟨u, hu, hengine⟩ := step_next h
  have hparams : u.rom = s.rom ∧ u.pack = s.pack ∧ u.addrBits = s.addrBits := applyInput_params (s := s.takeInput) hu
  rcases hengine with ⟨_, w, rfl⟩ | ⟨_, _, _, rfl⟩
  · exact hparams
  · simpa using hparams

end Sys2Proof.Machine
end

section
/-! SUPPORT and the proof about failing reads (R33, R53, R223). -/

namespace Sys2Proof.Machine

theorem runCommand_reads (s : State) (m : Ctx → Engine Word) :
    (s.runCommand m).reads = (m s.ctx s.store s.reads).reads := by
  rcases runCommand_cases s m with ⟨v, k, hr, hc⟩ | ⟨e, info, k, hr, hc⟩
  · rw [hc, hr, Run.reads]
  · rw [hc, hr, Run.reads]

/-- After StorageIO, ERRINFO is the address of the last read, which failed; after another completion it is 0 (R33, R223). -/
theorem exec_errinfo {i : Instr} {s t : State} (h : exec i s = .next t) :
    (t.errcode ≠ some .storageIO → t.errinfo = 0) ∧
    (t.errcode = some .storageIO → ∃ a k, s.store.respond a k = .error ∧ t.errinfo = BitVec.ofNat 64 a ∧
      s.reads ≤ k ∧ t.reads = k + 1) := by
  rw [exec_next] at h
  rcases runCommand_cases s (commandOf i) with ⟨v, k, _, hc⟩ | ⟨e, info, k, hr, hc⟩
  · rw [← h, hc]
    exact ⟨fun _ => rfl, nofun⟩
  · rw [← h, hc]
    refine ⟨fun hne => ?_, fun he => ?_⟩
    · exact ((commandOf_built i s.ctx).raisesOnly _ _ _ _ _ hr).2 fun he => hne (congrArg some he)
    · obtain rfl : e = .storageIO := Option.some.inj he
      exact (commandOf_built i s.ctx).storageIO_of_failing_read hr

/-- Each read of a command goes to one address, fixed by the answers before it, and ends the command where it fails
(R53, R223). -/
theorem exec_read_can_fail {i : Instr} {s t : State} {k : Nat} (h : exec i s = .next t) (hk : s.reads ≤ k)
    (hlt : k < t.reads) :
    ∃ a, ∀ st : Store, (∀ b j, j < k → st.respond b j = s.store.respond b j) → st.respond a k = .error →
      exec i { s with store := st } = .next { State.completeError { s with store := st } .storageIO (BitVec.ofNat 64 a)
        with reads := k + 1 } := by
  rw [exec_next] at h
  rw [← h, runCommand_reads] at hlt
  obtain ⟨-, -, hreads⟩ := (commandOf_built i s.ctx).readsInOrder s.store s.reads
  obtain ⟨a, ha⟩ := hreads k hk hlt
  exact ⟨a, fun st hbefore hfail => exec_next.mpr (runCommand_err (s := { s with store := st }) (ha st hbefore hfail))⟩

/-- GETBIT with its checks passed is its one read (R121). -/
theorem getbitCmd_of_ok {c : Ctx} (hv : c.longViewOk = true) (hspan : c.streamPos + c.arg0U / 64 < c.longWords) :
    getbitCmd c = (longWord c (c.streamPos + c.arg0U / 64)).bind fun a =>
      .pure (zext64 (a.getLsbD (63 - c.arg0U % 64)).toNat) := by
  rw [getbitCmd, longViewCheck_of_ok hv, Engine.pure_bind, if_neg (Nat.not_le.mpr hspan)]

theorem memRead_error {a k : Nat} {st : Store} (h : st.respond a k = .error) :
    memRead a st k = .err .storageIO (BitVec.ofNat 64 a) (k + 1) := by
  simp only [memRead, h]

/-- Settles O15: what every command keeps, being built from reads, and GETBIT's one read. -/
theorem errinfoIsTheFailingAddress : Obligations.ErrinfoIsTheFailingAddress := by
  unfold Obligations.ErrinfoIsTheFailingAddress
  refine ⟨fun i s t h => exec_errinfo h, fun i s t k h hk hlt => exec_read_can_fail h hk hlt, fun s hv hspan hfail => ?_⟩
  refine exec_failsWith ?_
  rw [commandOf, getbitCmd_of_ok hv hspan]
  exact Engine.bind_err (memRead_error hfail)

end Sys2Proof.Machine
end

section
/-! SUPPORT and proofs about the host register port: reset values, fields and constants (R22 to R29, R44, R220). -/

namespace Sys2Proof.Machine

/-! ### Reset -/

theorem reset_inv : State.reset.Inv where
  inFlight := nofun
  errinfo := fun _ => rfl
  result := fun h => absurd rfl h
  memory := Store.empty_wf
  addresses := nofun
  rom := by decide
  pack := by decide

theorem reset_readReg {r : Reg} (h : r ≠ .id) : State.reset.readReg r = 0 := by
  cases r with
  | id => exact absurd rfl h
  | status => decide
  | ctrl => decide
  | _ => rfl

/-- Settles O19: register by register; the default parameters meet their constraints. -/
theorem resetLeavesTheTabledValues : Obligations.ResetLeavesTheTabledValues := by
  unfold Obligations.ResetLeavesTheTabledValues
  exact ⟨rfl, fun r => reset_readReg, rfl, rfl, rfl, rfl, rfl, reset_inv⟩

/-! ### Offsets without a register, and ID -/

theorem regOffset_lt (r : Reg) : (regOffset r).toNat < 0x68 := by
  cases r <;> decide

/-- No register stands at 0x68 or above (R24). -/
theorem regAt_reserved {off : BitVec 8} (h : 0x68 ≤ off.toNat) : regAt off = none := by
  cases hr : regAt off with
  | none => rfl
  | some r =>
    rw [regAt_eq_some.mp hr] at h
    exact absurd (regOffset_lt r) (Nat.not_lt.mpr h)

/-- Settles O27: no register is found there. -/
theorem reservedOffsetsReadZero : Obligations.ReservedOffsetsReadZero := by
  unfold Obligations.ReservedOffsetsReadZero
  intro s off v h
  simp only [State.readOffset, State.writeOffset, regAt_reserved h, and_self]

/-- Settles O28: offset 0 is ID's, which has no storage. -/
theorem idIsConstant : Obligations.IdIsConstant := by
  unfold Obligations.IdIsConstant
  intro s
  have hid : s.readOffset 0x00 = idValue := readOffset_regOffset s .id
  rw [hid]
  exact ⟨rfl, by decide, fun v => writeOffset_regOffset s .id v⟩

/-! ### STATUS -/

/-- Where the fields stand in a word laid out as STATUS (R29). -/
theorem statusLayout_fields : ∀ (code : BitVec 4) (ovr err done busy : Bool) (w : Word),
    w = (0 : BitVec 52) ++ code ++ (0 : BitVec 4) ++ BitVec.ofBool ovr ++ BitVec.ofBool err ++ BitVec.ofBool done
      ++ BitVec.ofBool busy →
    w.getLsbD 0 = busy ∧ w.getLsbD 1 = done ∧ w.getLsbD 2 = err ∧ w.getLsbD 3 = ovr ∧ w.extractLsb' 4 4 = 0 ∧
      w.extractLsb' 8 4 = code ∧ w.extractLsb' 12 52 = 0 := by
  intro code ovr err done busy w hw
  subst hw
  revert code ovr err done busy
  decide

/-- Settles O30: the fields' places in the word, and the code of each error. -/
theorem statusFieldsAreAsTabled : Obligations.StatusFieldsAreAsTabled := by
  unfold Obligations.StatusFieldsAreAsTabled
  intro s
  obtain ⟨hbusy, hdone, herr, hovr, hlow, hcode, hhigh⟩ :=
    statusLayout_fields s.errNumber s.ovr s.errFlag s.done s.busy (s.readReg .status) rfl
  refine ⟨?_, hdone, ?_, hovr, hlow, ?_, hhigh⟩
  · rw [hbusy, Bool.eq_iff_iff, busy_iff, decide_eq_true_iff]
  · rw [herr, hcode, Bool.eq_iff_iff, decide_eq_true_iff, State.errFlag, bne_iff_ne]
  · rw [hcode, State.errNumber]
    rcases s.errcode with _ | (_ | _ | _ | _) <;> rfl

end Sys2Proof.Machine
end

section
/-! SUPPORT and proofs about host accesses, step by step (R23 to R37, R229, R237, R261). -/

namespace Sys2Proof.Machine

/-! ### Which accesses are defined, and that a read changes nothing -/

theorem step_refused {s : State} {r : Refusal} (h : s.takeInput.applyInput s.nextInput = .refused r) :
    step s = .refused r := by
  simp only [step, State.cycle, h]

theorem step_goes_on {s u : State} (h : s.takeInput.applyInput s.nextInput = .next u) : ∃ t, step s = .next t := by
  rcases cycle_cases s with ⟨v, _, _, hs⟩ | ⟨v, _, _, hs⟩ | ⟨r, hr, _⟩
  · rw [hs]
    exact advance_next v
  · exact ⟨v, hs⟩
  · rw [h] at hr
    cases hr

/-- An ill-formed access is refused, read or write (R23). -/
theorem applyInput_illFormed {off : BitVec 8} {n : Nat} (h : ¬(n = 8 ∧ off.toNat % 8 = 0)) (s : State) (v : Word) :
    s.applyInput (.read off n) = .refused (.undefinedHostAccess off n) ∧
    s.applyInput (.write off n v) = .refused (.undefinedHostAccess off n) := by
  rw [← hostAccessWellFormed_iff] at h
  exact ⟨if_neg h, if_neg h⟩

/-- Settles O26: the step does what its input does. -/
theorem undefinedHostAccessIsRefused : Obligations.UndefinedHostAccessIsRefused := by
  unfold Obligations.UndefinedHostAccessIsRefused
  intro s off n v rest
  refine ⟨fun hbad => ?_, fun hok => ?_⟩
  · obtain ⟨hread, hwrite⟩ := applyInput_illFormed hbad { s with inputs := rest, readData := none } v
    exact ⟨step_refused hread, step_refused hwrite⟩
  · have hwf := hostAccessWellFormed_iff.mpr hok
    exact ⟨step_goes_on (applyInput_read hwf), step_goes_on (applyInput_write hwf v)⟩

theorem State.complete_readData (s : State) (r : Run Word) (d : Option Word) :
    State.complete { s with readData := d } r = { s.complete r with readData := d } := by cases r <;> rfl

/-- The data lines of the port make no difference to the engine's part of a step. -/
theorem advance_readData (s : State) (d : Option Word) :
    ∃ t, s.advance = .next t ∧ State.advance { s with readData := d } = .next { t with readData := d } := by
  rcases Nat.eq_zero_or_eq_sub_one_add_one (n := s.wait) with hw | hw
  · have hrun : State.commandRun { s with readData := d } = s.commandRun := rfl
    refine ⟨_, advance_due hw, ?_⟩
    rw [advance_due (s := { s with readData := d }) hw, hrun, State.complete_readData]
  · exact ⟨_, advance_waiting hw, advance_waiting (s := { s with readData := d }) hw⟩

/-- Settles O25: the read's effect is on the data lines, which the engine's part carries along. -/
theorem registerReadsHaveNoSideEffect : Obligations.RegisterReadsHaveNoSideEffect := by
  unfold Obligations.RegisterReadsHaveNoSideEffect
  intro s off rest hoff
  have hread := applyInput_read (s := { s with inputs := rest, readData := none })
    (hostAccessWellFormed_iff.mpr ⟨rfl, hoff⟩)
  rcases eng_cases s with he | he
  · exact ⟨_, step_idle (s := { s with inputs := .idle :: rest }) he,
      (step_idle (s := { s with inputs := .read off 8 :: rest }) he).trans hread⟩
  · obtain ⟨t, hidle, hafter⟩ := advance_readData { s with inputs := rest, readData := none } (some (s.readOffset off))
    exact ⟨t, (step_busy (s := { s with inputs := .idle :: rest }) he nofun rfl).trans hidle,
      (step_busy (s := { s with inputs := .read off 8 :: rest }) he nofun hread).trans hafter⟩

/-! ### Register writes -/

/-- What a written register other than STATUS reads back as (R22, R27 to R37). -/
theorem readReg_writeReg_same (s : State) (v : Word) {r : Reg} (h : r ≠ .status) :
    (s.writeReg v r).readReg r = match r with
      | .id => 0x53554343494E4354
      | .cmd => 0
      | .ctrl => v &&& 1
      | .result => s.result
      | .errinfo => s.errinfo
      | _ => v := by
  cases r with
  | status => exact absurd rfl h
  | ctrl =>
    show (0 : BitVec 63) ++ BitVec.ofBool (v.getLsbD 0) = v &&& 1#64
    rw [BitVec.and_one_eq_setWidth_ofBool_getLsbD]
    cases v.getLsbD 0 <;> rfl
  | _ => rfl

/-- A write of a register that is neither CMD nor STATUS changes no other register. -/
theorem readReg_writeReg_other (s : State) (v : Word) {r q : Reg} (hne : q ≠ r) (hc : r ≠ .cmd) (hs : r ≠ .status) :
    (s.writeReg v r).readReg q = s.readReg q := by
  cases r with
  | cmd => exact absurd rfl hc
  | status => exact absurd rfl hs
  | id | result | errinfo => rfl
  | _ => cases q <;> simp [State.writeReg, State.readReg, State.ctrlWord, State.statusWord, State.errFlag,
      State.errNumber, State.busy] at hne ⊢

end Sys2Proof.Machine
end

section
/-! SUPPORT and proofs about which registers and flags a step changes (R26 to R38, R224, R229, R237, R259, R261). -/

namespace Sys2Proof.Machine

/-! ### The registers over a step -/

/-- A CMD write leaves the registers the engine never writes (R28, R38). -/
theorem writeCmd_readReg (s : State) (w : Word) {q : Reg} (hq : q ∉ [Reg.result, .errinfo, .status]) :
    (s.writeCmd w).readReg q = s.readReg q := by
  rcases eng_cases s with he | he
  · rw [writeCmd_idle he]
    cases q <;> simp [State.readReg, State.ctrlWord] at hq ⊢
  · rw [writeCmd_busy he]
    cases q <;> simp [State.readReg, State.ctrlWord] at hq ⊢

theorem ackStatus_readReg (s : State) (v : Word) {q : Reg} (hq : q ≠ .status) :
    (s.ackStatus v).readReg q = s.readReg q := by
  cases q <;> simp [State.readReg, State.ctrlWord] at hq ⊢

/-- A write of any other register leaves the registers the engine never writes. -/
theorem readReg_writeReg_operand (s : State) (v : Word) {r q : Reg} (hne : q ≠ r)
    (hq : q ∉ [Reg.result, .errinfo, .status]) : (s.writeReg v r).readReg q = s.readReg q := by
  cases r with
  | cmd => exact writeCmd_readReg s v hq
  | status => exact ackStatus_readReg s v hne
  | _ => exact readReg_writeReg_other s v hne (by decide) (by decide)

/-- The engine's part of a step writes no register but RESULT, ERRINFO and STATUS, and those in a completion alone. -/
theorem step_readReg {s t : State} (h : step s = .next t) :
    ∃ u, s.takeInput.applyInput s.nextInput = .next u ∧
      ∀ q, s.noCompletionDue ∨ q ∉ [Reg.result, .errinfo, .status] → t.readReg q = u.readReg q := by
  obtain ⟨u, hu, ⟨_, w, rfl⟩ | ⟨_, hb, hw, rfl⟩⟩ := step_next h
  · exact ⟨u, hu, fun q _ => rfl⟩
  · exact ⟨u, hu, fun q hq => State.complete_readReg u _ (hq.resolve_left (not_noCompletionDue hb hw))⟩

/-- An input that neither writes the register nor resets leaves a register the engine never writes. -/
theorem applyInput_readReg {s t : State} {e : Input} {q : Reg} (h : s.applyInput e = .next t) (hr : e ≠ .reset)
    (hq : q ∉ [Reg.result, .errinfo, .status]) (hw : ∀ v, e ≠ .write (regOffset q) 8 v) :
    t.readReg q = s.readReg q := by
  cases e with
  | reset => exact absurd rfl hr
  | write off n v =>
    obtain ⟨hwf, rfl⟩ := applyInput_write_next.mp h
    obtain ⟨rfl, _⟩ := hostAccessWellFormed_iff.mp hwf
    rcases writeOffset_cases s off v with ⟨r, rfl, hs⟩ | ⟨_, hs⟩
    · rw [hs]
      exact readReg_writeReg_operand s v (fun heq => hw v (by rw [heq])) hq
    · rw [hs]
  | read off n =>
    obtain ⟨_, rfl⟩ := applyInput_read_next.mp h
    rfl
  | store a b =>
    obtain ⟨_, rfl⟩ := applyInput_store_next.mp h
    rfl
  | _ =>
    cases h
    rfl

/-- Settles O23: neither the input nor the engine's part writes the register. -/
theorem onlyTheHostWritesOperandRegisters : Obligations.OnlyTheHostWritesOperandRegisters := by
  unfold Obligations.OnlyTheHostWritesOperandRegisters
  intro s t r h hr hmem hw
  have hq : r ∉ [Reg.result, .errinfo, .status] := by
    revert hmem
    cases r <;> decide
  obtain ⟨u, hu, hengine⟩ := step_readReg h
  exact (hengine r (.inr hq)).trans (applyInput_readReg (s := s.takeInput) hu hr hq hw)

/-- Settles O29: what the write leaves, and the engine's part after it. -/
theorem registersReadBackWhatIsWritten : Obligations.RegistersReadBackWhatIsWritten := by
  unfold Obligations.RegistersReadBackWhatIsWritten
  intro s t r v rest hr hin hstep
  obtain ⟨u, hu, hengine⟩ := step_readReg hstep
  rw [takeInput_applyInput_write hin] at hu
  cases hu
  refine ⟨fun hdue => ?_, fun hc q hne hdue => ?_⟩
  · rw [hengine r (hdue.imp_right ?_), readReg_writeReg_same _ v hr]
    · cases r <;> rfl
    · simp [hr]
  · rw [hengine q hdue, readReg_writeReg_other _ v hne hc hr]
    rfl

/-! ### STATUS writes -/

/-- Settles O31: the step of an idle block, or one that counts down, after the acknowledgement. -/
theorem statusWriteClearsOnlyDoneAndOvr : Obligations.StatusWriteClearsOnlyDoneAndOvr := by
  unfold Obligations.StatusWriteClearsOnlyDoneAndOvr
  intro s v rest hdue hin
  have hu := takeInput_applyInput_write (r := .status) hin
  rcases eng_cases s with he | he
  · rw [step_idle he, hu]
    simp [State.writeReg, State.ackStatus, he]
  · have hw : s.wait ≠ 0 := hdue.resolve_left (by simp [he])
    rw [step_waiting (n := s.wait - 1) he (by omega) (nextInput_write_ne_reset hin) hu]
    simp [State.writeReg, State.ackStatus, he]

/-! ### The flags and results over a step -/

/-- The fields of STATUS, RESULT and ERRINFO are alike. -/
structure State.StatusAgrees (s t : State) : Prop where
  eng : t.eng = s.eng
  done : t.done = s.done
  ovr : t.ovr = s.ovr
  errcode : t.errcode = s.errcode
  errinfo : t.errinfo = s.errinfo
  result : t.result = s.result

/-- What an input does to these fields: `rst`, a CMD write and a STATUS write have their effects, no other input any
(R28, R29, R237, R250). -/
theorem applyInput_status_cases {s u : State} {e : Input} (h : s.applyInput e = .next u) :
    (e = .reset ∧ u = s.resetBlock) ∨ (∃ v, e = .write 0x08 8 v ∧ u = s.writeCmd v) ∨
    (∃ v, e = .write 0x10 8 v ∧ u = s.ackStatus v) ∨
    (e ≠ .reset ∧ (∀ n v, e ≠ .write 0x08 n v) ∧ (∀ n v, e ≠ .write 0x10 n v) ∧ s.StatusAgrees u) := by
  cases e with
  | reset =>
    cases h
    exact .inl ⟨rfl, rfl⟩
  | write off n v =>
    obtain ⟨hwf, rfl⟩ := applyInput_write_next.mp h
    obtain ⟨rfl, _⟩ := hostAccessWellFormed_iff.mp hwf
    by_cases hc : off = 0x08
    · subst hc
      exact .inr (.inl ⟨v, rfl, rfl⟩)
    by_cases hs : off = 0x10
    · subst hs
      exact .inr (.inr (.inl ⟨v, rfl, rfl⟩))
    refine .inr (.inr (.inr ⟨nofun, fun n w he => hc ?_, fun n w he => hs ?_, ?_⟩))
    · cases he
      rfl
    · cases he
      rfl
    · rcases writeOffset_cases s off v with ⟨r, rfl, hw⟩ | ⟨_, hw⟩
      · rw [hw]
        cases r with
        | cmd => exact absurd rfl hc
        | status => exact absurd rfl hs
        | _ => exact ⟨rfl, rfl, rfl, rfl, rfl, rfl⟩
      · rw [hw]
        exact ⟨rfl, rfl, rfl, rfl, rfl, rfl⟩
  | read off n =>
    obtain ⟨_, rfl⟩ := applyInput_read_next.mp h
    exact .inr (.inr (.inr ⟨nofun, nofun, nofun, rfl, rfl, rfl, rfl, rfl, rfl⟩))
  | store a b =>
    obtain ⟨_, rfl⟩ := applyInput_store_next.mp h
    exact .inr (.inr (.inr ⟨nofun, nofun, nofun, rfl, rfl, rfl, rfl, rfl, rfl⟩))
  | _ =>
    cases h
    exact .inr (.inr (.inr ⟨nofun, nofun, nofun, rfl, rfl, rfl, rfl, rfl, rfl⟩))

/-- What the engine's part of a step does to these fields: nothing, or a completion, which leaves OVR (R224). -/
theorem step_status {s t : State} (h : step s = .next t) :
    ∃ u, s.takeInput.applyInput s.nextInput = .next u ∧ t.ovr = u.ovr ∧
      (s.nextInput = .reset ∨ s.noCompletionDue → u.StatusAgrees t) ∧
      (s.nextInput ≠ .reset → s.eng = .busy → s.wait = 0 → t.eng = .idle ∧ t.done = true) := by
  obtain ⟨u, hu, ⟨hnone, w, rfl⟩ | ⟨hr, hb, hw, rfl⟩⟩ := step_next h
  · refine ⟨u, hu, rfl, fun _ => ⟨rfl, rfl, rfl, rfl, rfl, rfl⟩, fun hr hb hw => ?_⟩
    exact absurd (hnone.resolve_left hr) (not_noCompletionDue hb hw)
  · refine ⟨u, hu, State.complete_ovr u _, fun hnone => ?_, fun _ _ _ => ⟨State.complete_eng u _, State.complete_done u _⟩⟩
    exact absurd (hnone.resolve_left hr) (not_noCompletionDue hb hw)

theorem writeCmd_ovr (s : State) (w : Word) : (s.writeCmd w).ovr = if s.eng = .busy then true else s.ovr := by
  rcases eng_cases s with he | he
  · simp [writeCmd_idle he, he]
  · simp [writeCmd_busy he, he]

theorem writeCmd_result (s : State) (w : Word) : (s.writeCmd w).result = s.result := by
  obtain ⟨-, -, hresult, -⟩ := writeReg_frame s w .cmd
  exact hresult

/-- Settles O24: the effect of the input on the fields, and the engine's part after it. -/
theorem flagsAndResultsChangeOnlyByTheirEvents : Obligations.FlagsAndResultsChangeOnlyByTheirEvents := by
  unfold Obligations.FlagsAndResultsChangeOnlyByTheirEvents
  intro s t h
  obtain ⟨u, hu, hovr, hagree, hdue⟩ := step_status h
  rw [hovr]
  rcases applyInput_status_cases hu with ⟨he, rfl⟩ | ⟨v, he, rfl⟩ | ⟨v, he, rfl⟩ | ⟨hr, hcmd, hack, hin⟩
  · have hsame := hagree (.inl he)
    rw [he]
    exact ⟨rfl, fun _ => ⟨hsame.eng, hsame.done, hsame.errcode, hsame.result, hsame.errinfo⟩,
      fun hr => absurd rfl hr, fun hr => absurd rfl hr⟩
  · refine ⟨?_, fun hr => ?_, hdue, fun _ hnone => ?_⟩
    · rw [writeCmd_ovr, he]
      rcases eng_cases s with hi | hb
      · simp [hi]
      · simp [hb]
    · rw [he] at hr
      cases hr
    have hsame := hagree (.inr hnone)
    refine ⟨hsame.result.trans (writeCmd_result _ v), fun _ hi => ?_, fun hno => ?_⟩
    · rw [hsame.eng, hsame.done, hsame.errcode, hsame.errinfo, writeCmd_idle (s := s.takeInput) hi]
      exact ⟨rfl, rfl, rfl, rfl⟩
    · have hb : s.eng = .busy := hno.resolve_left fun hn => hn 8 v he
      rw [hsame.eng, hsame.done, hsame.errcode, hsame.errinfo, writeCmd_busy (s := s.takeInput) hb, he]
      exact ⟨rfl, rfl, rfl, rfl⟩
  · refine ⟨?_, fun hr => ?_, hdue, fun _ hnone => ?_⟩
    · simp [he]
    · rw [he] at hr
      cases hr
    have hsame := hagree (.inr hnone)
    refine ⟨hsame.result, fun ⟨n, w, hw⟩ => ?_, fun _ => ⟨hsame.eng, hsame.errcode, hsame.errinfo, ?_⟩⟩
    · simp [he] at hw
    · rw [hsame.done, he]
      rfl
  · refine ⟨?_, fun h => absurd h hr, hdue, fun _ hnone => ?_⟩
    · rw [hin.ovr]
      split
      next he => exact absurd he hr
      next off n v he =>
        have hoffCmd : off ≠ 0x08 := fun ho => hcmd n v (ho ▸ he)
        have hoffStatus : off ≠ 0x10 := fun ho => hack n v (ho ▸ he)
        rw [if_neg fun ho => hoffCmd ho.1, if_neg hoffStatus, State.takeInput_ovr]
      next => rfl
    have hsame := hagree (.inr hnone)
    refine ⟨hsame.result.trans hin.result, fun ⟨n, w, hw⟩ => absurd hw (hcmd n w), fun _ =>
      ⟨hsame.eng.trans hin.eng, hsame.errcode.trans hin.errcode, hsame.errinfo.trans hin.errinfo, ?_⟩⟩
    rw [hsame.done, hin.done]
    split
    next off n v he =>
      have hoffStatus : off ≠ 0x10 := fun ho => hack n v (ho ▸ he)
      rw [if_neg hoffStatus, State.takeInput_done]
    next => rfl

end Sys2Proof.Machine
end

section
/-! SUPPORT and proofs about the completion of a command in flight and the backing store over a step (R50 to R52, R64, R262). -/

namespace Sys2Proof.Machine

/-! ### Completion -/

/-- Settles O9: the steps to wait, then the completion, which every command in flight has. -/
theorem commandInFlightCompletes : Obligations.CommandInFlightCompletes := by
  unfold Obligations.CommandInFlightCompletes
  intro n s hb hw hin
  have hfinish := finishCommand_eq { s with wait := 0, readData := none }
  exact ⟨_, (core_run_in_flight hb hw hin).trans hfinish, hfinish, State.complete_done _ _, State.complete_eng _ _⟩

/-! ### The backing store over a step -/

/-- No input but a host store changes the store's bytes (R50). -/
theorem applyInput_mem {s t : State} {e : Input} (h : s.applyInput e = .next t) (he : ∀ a b, e ≠ .store a b) :
    t.store.mem = s.store.mem := by
  cases e with
  | store a b => exact absurd rfl (he a b)
  | write off n v =>
    obtain ⟨_, rfl⟩ := applyInput_write_next.mp h
    rcases writeOffset_cases s off v with ⟨r, _, hw⟩ | ⟨_, hw⟩
    · obtain ⟨-, -, -, hmem, -⟩ := writeReg_frame s v r
      rw [hw, hmem]
    · rw [hw]
  | read off n =>
    obtain ⟨_, rfl⟩ := applyInput_read_next.mp h
    rfl
  | _ =>
    cases h
    rfl

/-- The engine's part of a step leaves the backing store as the step's input left it (R50). -/
theorem step_store {s t : State} (h : step s = .next t) :
    ∃ u, s.takeInput.applyInput s.nextInput = .next u ∧ t.store = u.store := by
  obtain ⟨u, hu, ⟨_, w, rfl⟩ | ⟨_, _, _, rfl⟩⟩ := step_next h
  · exact ⟨u, hu, rfl⟩
  · exact ⟨u, hu, State.complete_store u _⟩

/-- The step of a host store writes its byte, which counts as changed where a command is in flight (R51). -/
theorem step_hostStore {s t : State} {a : Word} {b : Byte} (hin : s.nextInput = .store a b) (h : step s = .next t) :
    t.store = s.store.write s.busy a b := by
  obtain ⟨u, hu, hstore⟩ := step_store h
  rw [hin] at hu
  obtain ⟨_, rfl⟩ := applyInput_store_next.mp hu
  exact hstore

/-- Read after host store, and every other byte as before (R50). -/
theorem Store.stableByte_write (st : Store) (f : Bool) (a : Word) (b : Byte) (x : Nat) :
    (st.write f a b).stableByte x = if x = a.toNat then b else st.stableByte x := by
  simp only [Store.stableByte, Store.write_mem, Memory.get?_set]
  by_cases hx : x = a.toNat
  · simp only [if_pos hx]
  · simp only [if_neg hx]

/-- Settles O22: of a step's input and its engine's part only a host store writes bytes. -/
theorem onlyHostStoresChangeTheBackingStore : Obligations.OnlyHostStoresChangeTheBackingStore := by
  unfold Obligations.OnlyHostStoresChangeTheBackingStore
  refine fun s t h => ⟨fun hno => ?_, fun a b hin x => ?_⟩
  · obtain ⟨u, hu, hstore⟩ := step_store h
    rw [hstore]
    exact applyInput_mem (s := s.takeInput) hu hno
  · rw [step_hostStore hin h, Store.stableByte_write]

/-! ### Changed bytes (R51) -/

/-- A host store while a command is in flight records its address as changed (R51). -/
theorem Store.changed_write_inFlight (st : Store) (a : Word) (b : Byte) (x : Nat) :
    (st.write true a b).changed.contains x = (decide (x = a.toNat) || st.changed.contains x) := by
  by_cases hmem : a.toNat ∈ st.changed
  · by_cases hx : x = a.toNat
    · simp [Store.write, hmem, hx]
    · simp [Store.write, hmem, hx]
  · simp [Store.write, hmem]

/-- A host store while a command is in flight makes its byte arbitrary, and no other (R51). -/
theorem Store.arbitrary_write_inFlight (st : Store) (a : Word) (b : Byte) (x : Nat) :
    (st.write true a b).arbitrary x = (decide (x = a.toNat) || st.arbitrary x) := by
  rw [Store.arbitrary, Store.changed_write_inFlight, Store.write_volatile, Bool.or_assoc, Store.arbitrary]

/-- Settles O34: the step writes the byte into the store its command goes on with, or completes on. -/
theorem changedBytesReadAsArbitrary : Obligations.ChangedBytesReadAsArbitrary := by
  unfold Obligations.ChangedBytesReadAsArbitrary
  refine ⟨fun s t a b hb hin h => ?_, fun s w l x => ?_⟩
  · have hstore := step_hostStore hin h
    rw [busy_iff.mpr hb] at hstore
    refine ⟨fun hw => ?_, fun hw i hi => ?_, fun k n => ?_, fun x hx => ?_⟩
    · obtain ⟨u, hu, ⟨_, w, rfl⟩ | ⟨_, _, hz, _⟩⟩ := step_next h
      · obtain ⟨heng, -⟩ := applyInput_busy_frame (s := s.takeInput) hb (by simp [hin]) hu
        exact heng
      · exact absurd hz hw
    · obtain ⟨u, hu, -⟩ := step_next h
      have hr : s.nextInput ≠ .reset := by simp [hin]
      obtain ⟨-, hsnap, -⟩ := applyInput_busy_frame (s := s.takeInput) hb hr hu
      have hexec := (step_due hb hw hr hu).trans (finishCommand_command (hsnap ▸ hi))
      have hrun : exec i u = .next t := hexec.symm.trans h
      refine ⟨u, hrun, hsnap, ?_⟩
      rw [← exec_next.mp hrun, State.runCommand, State.complete_store]
    · simp [hstore, Store.byteAt, Store.arbitrary_write_inFlight]
    · simp [hstore, Store.arbitrary_write_inFlight, hx]
  · simp [Store.arbitrary]

end Sys2Proof.Machine
end

section
/-! SUPPORT and the proof about which addresses a command reads (R54 to R57, R66). -/

namespace Sys2Proof.Machine

variable {α : Type} {c : Ctx} {P : Nat → Prop}

theorem Engine.ReadsOnly.ite {p : Prop} [Decidable p] {m m' : Engine α} (h : p → m.ReadsOnly P)
    (h' : ¬p → m'.ReadsOnly P) : (if p then m else m').ReadsOnly P := by
  split
  case isTrue hp => exact h hp
  case isFalse hp => exact h' hp

/-! ### The parts the two views share -/

/-- `Field` reads the words its bits lie in (R120). -/
theorem field_readsOnly {read : Nat → Engine Word} {base sb w : Nat} (hw : 1 ≤ w)
    (h : ∀ j ≤ base + (sb + w - 1) / 64, (read j).ReadsOnly P) : (field read base sb w).ReadsOnly P :=
  .bind (h _ (by omega)) fun _ => .ite (fun _ => .pure _ P) fun hcross =>
    .bind (h _ (by omega)) fun _ => .pure _ P

theorem bsearchLoop_readsOnly {f : Nat → Engine Int} (h : ∀ m, (f m).ReadsOnly P) (val : Int) (bound lo hi : Nat) :
    (bsearchLoop f val bound lo hi).ReadsOnly P := by
  induction bound generalizing lo hi with
  | zero => exact .pure _ P
  | succ bound ih =>
    exact .ite (fun _ => .bind (h _) fun _ => .ite (fun _ => ih _ _) fun _ => ih _ _) fun _ => .pure _ P

theorem bsearchGT_readsOnly {f : Nat → Engine Int} (h : ∀ m, (f m).ReadsOnly P) (cnt : Nat) (val : Int) :
    (bsearchGT cnt f val).ReadsOnly P :=
  .bind (bsearchLoop_readsOnly h _ _ _ _) fun _ => .pure _ P

/-! ### The dictionary commands read dictionary words alone (R57) -/

section
variable (hd : ∀ j, (dictWord c j).ReadsOnly P)
include hd

theorem groupCount_readsOnly (h : Header) (pos : Nat) : (groupCount c h pos).ReadsOnly P :=
  .bind (field_readsOnly (by decide) fun _ _ => hd _) fun _ =>
    .ite (fun _ => .bind (field_readsOnly (le_refl 1) fun _ _ => hd _) fun _ => .pure _ P) fun _ => .pure _ P

theorem groupPattern_readsOnly (h : Header) (pos cls : Nat) : (groupPattern c h pos cls).ReadsOnly P :=
  .bind (.ite (fun _ => .pure _ P) fun hw => field_readsOnly (Nat.pos_of_ne_zero hw) fun _ _ => hd _) fun _ =>
    .ite (fun _ => .raise _ P) fun _ => .pure _ P

theorem scanGroups_readsOnly (h : Header) (groups res pos : Nat) : (scanGroups c h groups res pos).ReadsOnly P := by
  induction groups generalizing res pos with
  | zero => exact .pure _ P
  | succ g ih => exact .bind (groupCount_readsOnly hd h _) fun _ => ih _ _

theorem rank1Core_readsOnly (h : Header) (i : Nat) : (rank1Core c h i).ReadsOnly P :=
  .bind (hd _) fun _ => .bind (hd _) fun _ => .bind (hd _) fun _ => .bind (hd _) fun _ =>
  .bind (scanGroups_readsOnly hd h _ _ _) fun _ => .bind (field_readsOnly (by decide) fun _ _ => hd _) fun _ =>
  .bind (groupPattern_readsOnly hd h _ _) fun _ => .ite (fun _ => .raise _ P) fun _ => .pure _ P

theorem l3Count_readsOnly (h : Header) (one : Bool) (m : Nat) : (l3Count c h one m).ReadsOnly P :=
  .bind (hd _) fun _ => .pure _ P

theorem l12Count_readsOnly (h : Header) (one : Bool) (lo m : Nat) : (l12Count c h one lo m).ReadsOnly P :=
  .bind (hd _) fun _ => .pure _ P

theorem l3Stage_readsOnly (h : Header) (one : Bool) (val : Int) : (l3Stage c h one val).ReadsOnly P :=
  .bind (bsearchGT_readsOnly (l3Count_readsOnly hd h one) _ _) fun _ => .bind (l3Count_readsOnly hd h one _) fun _ =>
  .bind (hd _) fun _ => .ite (fun _ => .raise _ P) fun _ => .pure _ P

theorem l12Stage_readsOnly (h : Header) (one : Bool) (l3 : Nat) (val : Int) (pos : Nat) :
    (l12Stage c h one l3 val pos).ReadsOnly P :=
  .bind (bsearchGT_readsOnly (l12Count_readsOnly hd h one _) _ _) fun _ =>
  .bind (l12Count_readsOnly hd h one _ _) fun _ => .bind (hd _) fun _ => .bind (hd _) fun _ =>
  .ite (fun _ => .raise _ P) fun _ => .pure _ P

theorem groupStage_readsOnly (h : Header) (one : Bool) (left : Nat) (x : Cursor) :
    (groupStage c h one left x).ReadsOnly P := by
  induction left generalizing x with
  | zero => exact .raise _ P
  | succ left ih => exact .bind (groupCount_readsOnly hd h _) fun _ => .ite (fun _ => .pure _ P) fun _ => ih _

omit hd in
theorem bitStage_readsOnly (h : Header) (one : Bool) (p : Pattern) (x : Cursor) : (bitStage h one p x).ReadsOnly P := by
  unfold bitStage
  split
  · exact .ite (fun _ => .raise _ P) fun _ => .pure _ P
  · exact .raise _ P

theorem selectStages_readsOnly (h : Header) (one : Bool) (val : Int) : (selectStages c h one val).ReadsOnly P :=
  .bind (l3Stage_readsOnly hd h one _) fun _ => .bind (l12Stage_readsOnly hd h one _ _ _) fun _ =>
  .bind (groupStage_readsOnly hd h one _ _) fun _ => .bind (groupPattern_readsOnly hd h _ _) fun _ =>
  bitStage_readsOnly h one _ _

theorem dictHeader_readsOnly : (dictHeader c).ReadsOnly P :=
  .bind (.ite (fun _ => .pure _ P) fun _ => .raise _ P) fun _ => .bind (hd _) fun _ =>
  .ite (fun _ => .raise _ P) fun _ => .ite (fun _ => .raise _ P) fun _ => .pure _ P

end

/-! ### The window (R54 to R57) -/

/-- The word at `a` lies whole in a well-formed window (R54). -/
def Ctx.WindowWord (c : Ctx) (a : Nat) : Prop :=
  c.winStart ≤ a ∧ a + 8 ≤ c.winStart + c.winLen ∧ c.winStart + c.winLen ≤ addrSpace c.addrBits

theorem longViewOk_iff : c.longViewOk = true ↔
    c.winStart + c.winLen ≤ addrSpace c.addrBits ∧ c.winLen % 8 = 0 ∧ 8 ≤ c.winLen := by
  simp [Ctx.longViewOk, Ctx.windowFits, and_assoc]

theorem dictViewOk_iff : c.dictViewOk = true ↔
    c.winStart + c.winLen ≤ addrSpace c.addrBits ∧ c.dictBase ≤ c.winLen ∧ (c.winLen - c.dictBase) % 8 = 0 ∧
      8 ≤ c.winLen - c.dictBase := by
  simp [Ctx.dictViewOk, Ctx.windowFits, and_assoc]

/-- A word of the long view lies whole in the window (R55). -/
theorem longWord_readsOnly (hv : c.longViewOk = true) {j : Nat} (hj : j < c.longWords) :
    (longWord c j).ReadsOnly c.WindowWord := by
  obtain ⟨hfits, -, -⟩ := longViewOk_iff.mp hv
  refine memRead_readsOnly ⟨by simp only [Ctx.longAddr]; omega, ?_, hfits⟩
  simp only [Ctx.longWords, Ctx.longAddr] at hj ⊢
  omega

/-- A word of the dictionary view lies whole in the window (R57). -/
theorem dictWord_readsOnly (hv : c.dictViewOk = true) (j : Nat) : (dictWord c j).ReadsOnly c.WindowWord := by
  obtain ⟨hfits, hbase, -, -⟩ := dictViewOk_iff.mp hv
  refine .ite (fun _ => .raise _ _) fun hj => memRead_readsOnly ⟨?_, ?_, hfits⟩
  · simp only [Ctx.dictAddr]
    omega
  · simp only [Ctx.dictWords, Ctx.dictAddr] at hj ⊢
    omega

/-- After the long view's check the view is well-formed (R55). -/
theorem longViewCheck_bind_readsOnly {f : Nat → Engine α} (h : c.longViewOk = true → (f c.longWords).ReadsOnly P) :
    ((longViewCheck c).bind f).ReadsOnly P := by
  cases hv : c.longViewOk with
  | false =>
    rw [longViewCheck_of_bad hv]
    exact .raise _ P
  | true =>
    rw [longViewCheck_of_ok hv]
    exact h hv

/-- After the dictionary view's check every dictionary word is one of the window (R56, R57). -/
theorem dictHeader_bind_readsOnly {f : Header → Engine α}
    (h : (∀ j, (dictWord c j).ReadsOnly c.WindowWord) → ∀ hd, (f hd).ReadsOnly c.WindowWord) :
    ((dictHeader c).bind f).ReadsOnly c.WindowWord := by
  cases hv : c.dictViewOk with
  | false =>
    rw [dictHeader_of_badView hv]
    exact .raise _ _
  | true =>
    have hwords := dictWord_readsOnly hv
    exact .bind (dictHeader_readsOnly hwords) (h hwords)

/-! ### The commands -/

/-- ARRAYRANK's search probes elements of its range (R140). -/
theorem arrayRankLoop_readsOnly (hv : c.longViewOk = true) (start : Nat) (key : Int) (bound lo : Nat) {hi : Nat}
    (hin : start + hi ≤ c.longWords) : (arrayRankLoop c start key bound lo hi).ReadsOnly c.WindowWord := by
  induction bound generalizing lo hi with
  | zero => exact .pure _ _
  | succ bound ih =>
    exact .ite (fun hlt => .bind (longWord_readsOnly hv (by omega)) fun _ => .ite (fun _ => .pure _ _) fun _ =>
      .ite (fun _ => ih _ hin) fun _ => ih _ (by omega)) fun _ => .pure _ _

theorem getbitCmd_readsOnly : (getbitCmd c).ReadsOnly c.WindowWord :=
  longViewCheck_bind_readsOnly fun hv => .ite (fun _ => .raise _ _) fun hspan =>
    .bind (longWord_readsOnly hv (Nat.not_le.mp hspan)) fun _ => .pure _ _

theorem one_le_of_not_badWidth {w : Nat} (h : ¬badWidth w = true) : 1 ≤ w := by
  rw [badWidth_iff] at h
  omega

theorem getfieldCmd_readsOnly : (getfieldCmd c).ReadsOnly c.WindowWord :=
  .ite (fun _ => .raise _ _) fun hw => longViewCheck_bind_readsOnly fun hv => .ite (fun _ => .raise _ _) fun hspan =>
    .bind (field_readsOnly (one_le_of_not_badWidth hw) fun _ hj => longWord_readsOnly hv (by omega)) fun _ => .pure _ _

theorem getfieldxCmd_readsOnly : (getfieldxCmd c).ReadsOnly c.WindowWord :=
  .ite (fun _ => .raise _ _) fun hw => .ite (fun _ => .raise _ _) fun _ => longViewCheck_bind_readsOnly fun hv =>
    .ite (fun _ => .raise _ _) fun hspan =>
    .bind (field_readsOnly (one_le_of_not_badWidth hw) fun _ hj => longWord_readsOnly hv (by omega)) fun _ => .pure _ _

theorem arrayrankCmd_readsOnly : (arrayrankCmd c).ReadsOnly c.WindowWord :=
  longViewCheck_bind_readsOnly fun hv => .ite (fun _ => .raise _ _) fun hspan =>
    .bind (arrayRankLoop_readsOnly hv _ _ _ _ (Nat.not_lt.mp hspan)) fun _ => .pure _ _

theorem rank1Cmd_readsOnly : (rank1Cmd c).ReadsOnly c.WindowWord :=
  .ite (fun _ => .pure _ _) fun _ => dictHeader_bind_readsOnly fun hd h => .ite (fun _ => .raise _ _) fun _ =>
    .bind (rank1Core_readsOnly hd h _) fun _ => .pure _ _

theorem rank0Cmd_readsOnly : (rank0Cmd c).ReadsOnly c.WindowWord :=
  .ite (fun _ => .pure _ _) fun _ => dictHeader_bind_readsOnly fun hd h => .ite (fun _ => .raise _ _) fun _ =>
    .bind (rank1Core_readsOnly hd h _) fun _ => .pure _ _

theorem selectCore_readsOnly (one : Bool) : (selectCore one c).ReadsOnly c.WindowWord :=
  .ite (fun _ => .raise _ _) fun _ => dictHeader_bind_readsOnly fun hd h =>
  .bind (.ite (fun _ => .pure _ _) fun _ => rank1Core_readsOnly hd h _) fun _ => .ite (fun _ => .raise _ _) fun _ =>
  .bind (selectStages_readsOnly hd h one _) fun _ => .pure _ _

/-- No command reads outside the window (R54, R66). -/
theorem commandOf_readsOnly (i : Instr) (c : Ctx) : (commandOf i c).ReadsOnly c.WindowWord := by
  cases i with
  | getbit => exact getbitCmd_readsOnly
  | getfield => exact getfieldCmd_readsOnly
  | getfieldx => exact getfieldxCmd_readsOnly
  | arrayrank => exact arrayrankCmd_readsOnly
  | rank1 => exact rank1Cmd_readsOnly
  | rank0 => exact rank0Cmd_readsOnly
  | select1 => exact selectCore_readsOnly true
  | select0 => exact selectCore_readsOnly false
  | romOffsetbits => exact .ite (fun _ => .raise _ _) fun _ => .pure _ _
  | romDecode => exact .ite (fun _ => .raise _ _) fun _ => .ite (fun _ => .raise _ _) fun _ => .pure _ _
  | romSmallrank => exact .ite (fun _ => .raise _ _) fun _ => .ite (fun _ => .raise _ _) fun _ => .pure _ _

/-- What a completion writes does not depend on the backing store, which it leaves (R224). -/
theorem State.complete_withStore (s : State) (st : Store) (r : Run Word) :
    State.complete { s with store := st } r = { s.complete r with store := st } := by
  cases r <;> rfl

/-- Settles O17: every read of a command is of a window word, which the two stores answer alike. -/
theorem commandsReadOnlyTheWindow : Obligations.CommandsReadOnlyTheWindow := by
  unfold Obligations.CommandsReadOnlyTheWindow
  intro i s t st hsame h
  have hrun := commandOf_readsOnly i s.ctx s.store st (fun a ⟨hlo, hhi, hfits⟩ k => hsame a k hlo hhi hfits) s.reads
  rw [exec_next] at h ⊢
  rw [← h, State.runCommand, State.runCommand, hrun, ← State.complete_withStore]
  rfl

end Sys2Proof.Machine
end

section
/-! SUPPORT. The select tree decoder's searches, group stage and bit stage, each on any words in a quiet view (R141, R190). -/

namespace Sys2Proof.Machine

/-! ### Counts of ones or zeros (R190, R193) -/

theorem countOf_add (one : Bool) (a b u v : Nat) :
    countOf one (a + b) (u + v) = countOf one a u + countOf one b v := by
  cases one with
  | true => exact Nat.cast_add u v
  | false =>
    simp only [countOf, Bool.false_eq_true, if_false]
    omega

theorem countOf_nonneg (one : Bool) {span v : Nat} (h : v ≤ span) : 0 ≤ countOf one span v := by
  cases one with
  | true => exact Int.natCast_nonneg v
  | false => exact Int.sub_nonneg_of_le (Int.ofNat_le.mpr h)

/-- A codeword counts at most the bits of its group (R62). -/
theorem codewordOnes_le (bit : Nat → Bool) (pos : Nat) : codewordOnes bit pos ≤ groupBits := by
  have hflag := Bool.toNat_le (bit (pos + classBits))
  have hcls := classField_le bit pos
  simp only [codewordOnes, groupBits]
  split <;> omega

/-! ### The block searches (R141) -/

/-- The search's loop makes the same choice on values as on computations that give these values. -/
theorem bsearchLoop_ends (g : Nat → Int) (val : Int) (bound lo hi : Nat) :
    ∃ r ≤ hi, (∀ st k, bsearchLoop (fun m => .pure (g m)) val bound lo hi st k = .ret r k) ∧
      ∀ (f : Nat → Engine Int) (st : Store), (∀ m < hi, (f m).Ends st (.ok (g m))) →
        (bsearchLoop f val bound lo hi).Ends st (.ok r) := by
  induction bound generalizing lo hi with
  | zero => exact ⟨hi, le_refl hi, fun _ _ => rfl, fun _ st _ => Engine.pure_ends hi st⟩
  | succ bound ih =>
    simp only [bsearchLoop]
    by_cases hlt : lo < hi
    · simp only [if_pos hlt, Engine.pure_bind]
      by_cases hval : g ((lo + hi - 1) / 2) < val
      · obtain ⟨r, hr, hpure, hends⟩ := ih ((lo + hi - 1) / 2 + 1) hi
        refine ⟨r, hr, by simpa only [if_pos hval] using hpure, fun f st hf => (hf _ (by omega)).bind_ok ?_⟩
        rw [if_pos hval]
        exact hends f st hf
      · obtain ⟨r, hr, hpure, hends⟩ := ih lo ((lo + hi - 1) / 2)
        refine ⟨r, by omega, by simpa only [if_neg hval] using hpure, fun f st hf => (hf _ (by omega)).bind_ok ?_⟩
        rw [if_neg hval]
        exact hends f st fun m hm => hf m (by omega)
    · simp only [if_neg hlt]
      exact ⟨hi, le_refl hi, fun _ _ => rfl, fun _ st _ => Engine.pure_ends hi st⟩

/-- The search chooses an index of its range, the same on values as on computations that give these values. -/
theorem bsearchGT_ends {cnt : Nat} (h : 1 ≤ cnt) (g : Nat → Int) (val : Int) :
    ∃ r < cnt, (∀ st k, bsearchGT cnt (fun m => .pure (g m)) val st k = .ret r k) ∧
      ∀ (f : Nat → Engine Int) (st : Store), (∀ m < cnt, (f m).Ends st (.ok (g m))) →
        (bsearchGT cnt f val).Ends st (.ok r) := by
  obtain ⟨r, hr, hpure, hends⟩ := bsearchLoop_ends g val cnt 0 cnt
  refine ⟨r - 1, by omega, fun st k => ?_, fun f st hf => (hends f st hf).bind_ok (Engine.pure_ends _ st)⟩
  rw [bsearchGT, Engine.bind_ret (hpure st k), Engine.pure_run]

/-- What the search on values chooses lies in its range, and the search on computations that give these values chooses it. -/
theorem bsearchGT_ends_of_values {cnt : Nat} (h : 1 ≤ cnt) {g : Nat → Int} {val : Int} {st : Store} {r : Nat}
    (hr : bsearchGT cnt (fun m => .pure (g m)) val st 0 = .ret r 0) :
    r < cnt ∧ ∀ f : Nat → Engine Int, (∀ m < cnt, (f m).Ends st (.ok (g m))) →
      (bsearchGT cnt f val).Ends st (.ok r) := by
  obtain ⟨r', hlt, hpure, hends⟩ := bsearchGT_ends h g val
  obtain rfl : r' = r := by simpa [hpure] using hr
  exact ⟨hlt, fun f => hends f st⟩

/-! ### The group stage (R190) -/

/-- The matching bits of the first `g` groups from body offset `pos` on, as their codewords stand. -/
def matchesBefore (c : Ctx) (st : Store) (n : Nat) (one : Bool) (pos g : Nat) : Int :=
  countOf one (groupBits * g) (scannedGroups c.rom (bodyBit c st n) pos g).1

/-- The cursor after the first `g` groups. -/
def Cursor.after (c : Ctx) (st : Store) (n : Nat) (one : Bool) (x : Cursor) (g : Nat) : Cursor :=
  ⟨x.val - matchesBefore c st n one x.pos g, (scannedGroups c.rom (bodyBit c st n) x.pos g).2, x.sel + groupBits * g⟩

theorem matchesBefore_zero (c : Ctx) (st : Store) (n : Nat) (one : Bool) (pos : Nat) :
    matchesBefore c st n one pos 0 = 0 := by
  cases one <;> rfl

theorem matchesBefore_succ (c : Ctx) (st : Store) (n : Nat) (one : Bool) (pos g : Nat) :
    matchesBefore c st n one pos (g + 1) = matchesBefore c st n one pos g +
      countOf one groupBits (codewordOnes (bodyBit c st n) (scannedGroups c.rom (bodyBit c st n) pos g).2) := by
  rw [matchesBefore, scannedGroups_succ, Nat.mul_succ, countOf_add]
  rfl

theorem matchesBefore_le_succ (c : Ctx) (st : Store) (n : Nat) (one : Bool) (pos g : Nat) :
    matchesBefore c st n one pos g ≤ matchesBefore c st n one pos (g + 1) := by
  rw [matchesBefore_succ]
  exact le_add_of_nonneg_right (countOf_nonneg one (codewordOnes_le _ _))

theorem Cursor.after_zero (c : Ctx) (st : Store) (n : Nat) (one : Bool) (x : Cursor) : x.after c st n one 0 = x := by
  simp [Cursor.after, matchesBefore_zero, scannedGroups]

theorem Cursor.after_succ (c : Ctx) (st : Store) (n : Nat) (one : Bool) (x : Cursor) (g : Nat) :
    x.after c st n one (g + 1) =
      ⟨(x.after c st n one g).val - countOf one groupBits (codewordOnes (bodyBit c st n) (x.after c st n one g).pos),
        codewordEnd c.rom (bodyBit c st n) (x.after c st n one g).pos, (x.after c st n one g).sel + groupBits⟩ := by
  rw [Cursor.after, matchesBefore_succ, ← sub_sub]
  rfl

theorem Cursor.after_pos_le_succ (c : Ctx) (st : Store) (n : Nat) (one : Bool) (x : Cursor) (g : Nat) :
    (x.after c st n one g).pos ≤ (x.after c st n one (g + 1)).pos := by
  rw [Cursor.after_succ]
  exact (Nat.le_add_right _ 4).trans (add_classBits_le_codewordEnd _ _ _)

/-- Bits are left to find after `g` groups exactly when these hold fewer matching bits than the cursor asks for. -/
theorem Cursor.after_val_pos {c : Ctx} {st : Store} {n : Nat} {one : Bool} {x : Cursor} {g : Nat} :
    0 < (x.after c st n one g).val ↔ matchesBefore c st n one x.pos g < x.val := Int.sub_pos

section
variable {c : Ctx} {st : Store} (hq : st.quiet (c.dictAddr 0) (8 * c.dictWords)) (n : Nat) (one : Bool)
include hq

/-- Where bits are left to find after a group, the group stage passes it, or its codeword reaches past the view. -/
theorem groupStage_pass {left g : Nat} {x : Cursor} (hval : 0 < (x.after c st n one (g + 1)).val)
    {o : Except ErrorKind (Nat × Cursor)}
    (h : (groupStage c (headerOf n) one left (x.after c st n one (g + 1))).Ends st o) :
    (groupStage c (headerOf n) one (left + 1) (x.after c st n one g)).Ends st o ∨
      (groupStage c (headerOf n) one (left + 1) (x.after c st n one g)).Ends st (.error .corruptDictionary) ∧
        c.dictWords ≤ (headerOf n).body + (x.after c st n one (g + 1)).pos / 64 := by
  rw [Cursor.after_succ] at h hval ⊢
  dsimp only at hval ⊢
  rcases groupCount_ends hq n (x.after c st n one g).pos with hcount | ⟨hcount, hpast⟩
  · refine .inl (hcount.bind_ok ?_)
    rw [if_neg (by dsimp only; omega)]
    exact h
  · exact .inr ⟨hcount.bind_error _, by omega⟩

/-- Where bits are left to find after the first `g` groups, the group stage passes them all, or a codeword of theirs
reaches past the view. -/
theorem groupStage_skip {left g : Nat} {x : Cursor} (hval : 0 < (x.after c st n one g).val)
    {o : Except ErrorKind (Nat × Cursor)}
    (h : (groupStage c (headerOf n) one left (x.after c st n one g)).Ends st o) :
    (groupStage c (headerOf n) one (left + g) x).Ends st o ∨
      (groupStage c (headerOf n) one (left + g) x).Ends st (.error .corruptDictionary) ∧
        c.dictWords ≤ (headerOf n).body + (x.after c st n one g).pos / 64 := by
  induction g generalizing left o with
  | zero =>
    rw [Cursor.after_zero] at h
    exact .inl h
  | succ g ih =>
    have hle := matchesBefore_le_succ c st n one x.pos g
    have hval' : 0 < (x.after c st n one g).val := by
      rw [Cursor.after_val_pos] at hval ⊢
      omega
    have hpos := x.after_pos_le_succ c st n one g
    rw [show left + (g + 1) = left + 1 + g by omega]
    rcases groupStage_pass hq n one hval h with hpass | ⟨hpass, hpast⟩
    · exact (ih hval' hpass).imp_right fun ⟨herr, hpast⟩ => ⟨herr, by omega⟩
    · exact .inr ⟨(ih hval' hpass).elim id And.left, hpast⟩

end

/-! ### The bit stage (R190) -/

/-- The scan passes bits that hold fewer matching ones than are left to find. -/
theorem bitScan_append {p : Pattern} {one : Bool} {js : List Nat} {val : Int}
    (h : (js.countP fun j => p.getLsbD (15 - j) == one : Nat) < val) (ks : List Nat) :
    bitScan p one (js ++ ks) val =
      bitScan p one ks (val - (js.countP fun j => p.getLsbD (15 - j) == one : Nat)) := by
  induction js generalizing val with
  | nil => simp
  | cons j js ih =>
    rw [List.cons_append, bitScan]
    by_cases hj : p.getLsbD (15 - j) = one
    · have hcount : (j :: js).countP (fun j => p.getLsbD (15 - j) == one) =
          js.countP (fun j => p.getLsbD (15 - j) == one) + 1 := List.countP_cons_of_pos (by simp [hj])
      rw [hcount] at h ⊢
      rw [if_pos hj, if_neg (by omega), ih (by omega)]
      congr 1
      omega
    · have hcount : (j :: js).countP (fun j => p.getLsbD (15 - j) == one) =
          js.countP (fun j => p.getLsbD (15 - j) == one) := List.countP_cons_of_neg (by simp [hj])
      rw [hcount] at h ⊢
      rw [if_neg hj, ih h]

/-- A pattern with fewer matching bits than are left to find lacks the bit (R190). -/
theorem bitStage_of_lacking {h : Header} {one : Bool} {p : Pattern} {x : Cursor}
    (hlack : ((List.range 16).countP fun j => p.getLsbD (15 - j) == one : Nat) < x.val) :
    bitStage h one p x = .raise .corruptDictionary := by
  have hscan := bitScan_append hlack []
  rw [List.append_nil, bitScan] at hscan
  simp only [bitStage, groupBits, hscan]

/-- The scan finds the bit with as many matching ones before it as are left to find but one (R190). -/
theorem bitScan_of_found {one : Bool} {p : Pattern} {val : Int} {j : Nat} (hj : j < 16) (hbit : p.getLsbD (15 - j) = one)
    (hcount : ((List.range j).countP fun b => p.getLsbD (15 - b) == one : Nat) + 1 = val) :
    bitScan p one (List.range groupBits) val = some j := by
  obtain ⟨rest, hrest⟩ : ∃ rest, List.range groupBits = List.range j ++ j :: rest := by
    refine ⟨(List.range (15 - j)).map (j + 1 + ·), ?_⟩
    rw [List.append_cons, ← List.range_succ, ← List.range_add, show j + 1 + (15 - j) = groupBits by
      simp only [groupBits]; omega]
  rw [hrest, bitScan_append (by omega), bitScan, if_pos hbit, if_pos (by omega)]

section
variable {h : Header} {one : Bool} {p : Pattern} {x : Cursor} {j : Nat} (hj : j < 16) (hbit : p.getLsbD (15 - j) = one)
  (hcount : ((List.range j).countP fun b => p.getLsbD (15 - b) == one : Nat) + 1 = x.val)
include hj hbit hcount

/-- The bit found at or beyond `n` raises CorruptDictionary (R190, R222 (f)). -/
theorem bitStage_of_beyond (hn : h.n ≤ x.sel + j) : bitStage h one p x = .raise .corruptDictionary := by
  simp only [bitStage, bitScan_of_found hj hbit hcount, if_pos hn]

/-- The bit found below `n` is the answer (R190). -/
theorem bitStage_of_below (hn : x.sel + j < h.n) : bitStage h one p x = .pure (x.sel + j) := by
  simp only [bitStage, bitScan_of_found hj hbit hcount, if_neg (Nat.not_le.mpr hn)]

end

/-- What the bit stage answers lies below `n` (R190). -/
theorem bitStage_ret_lt {h : Header} {one : Bool} {p : Pattern} {x : Cursor} {st : Store} {k k' v : Nat}
    (hr : bitStage h one p x st k = .ret v k') : v < h.n := by
  cases hscan : bitScan p one (List.range groupBits) x.val with
  | none =>
    simp only [bitStage, hscan] at hr
    cases hr
  | some j =>
    simp only [bitStage, hscan] at hr
    split at hr
    · cases hr
    next hlt =>
      cases hr
      exact Nat.not_le.mp hlt

end Sys2Proof.Machine
end

section
/-! SUPPORT. The stages of `SelectCore` put together, on any words in a quiet view (R190, R222). -/

namespace Sys2Proof.Machine

/-! ### Inside a quarter: the group and the bit stage (R190) -/

/-- The stages of `SelectCore` after the quarter is chosen (R190). -/
def selectInQuarter (c : Ctx) (h : Header) (one : Bool) (x : Cursor) : Engine Nat :=
  (groupStage c h one groupsPerQ x).bind fun z =>
  (groupPattern c h z.2.pos z.1).bind fun p => bitStage h one p z.2

/-- The codeword at `pos` has an offset field that ends past the view, or an offset beyond its table (R222 (c), (d)). -/
def CodewordBad (c : Ctx) (st : Store) (n pos : Nat) : Prop :=
  c.dictWords ≤ (headerOf n).body + (pos + 3 + c.rom.offsetBits (groupClass c st n pos)) / 64 ∨
    c.rom.entries (groupClass c st n pos) ≤ groupOffset c st n pos

/-- The pattern the codeword at `pos` decodes to (R62). -/
def codewordPattern (c : Ctx) (st : Store) (n pos : Nat) : Pattern :=
  c.rom.pattern (groupClass c st n pos) (groupOffset c st n pos)

section
variable {c : Ctx} {st : Store} (hq : st.quiet (c.dictAddr 0) (8 * c.dictWords)) (n : Nat) {one : Bool} {x : Cursor}
include hq

/-- A quarter whose groups hold fewer matching bits than are left to find raises CorruptDictionary (R190, R222 (f)). -/
theorem selectInQuarter_of_exhausted (hval : matchesBefore c st n one x.pos groupsPerQ < x.val) :
    (selectInQuarter c (headerOf n) one x).Ends st (.error .corruptDictionary) := by
  have hlast : (groupStage c (headerOf n) one 0 (x.after c st n one groupsPerQ)).Ends st (.error .corruptDictionary) :=
    Engine.raise_ends _ st
  exact ((groupStage_skip hq n one (Cursor.after_val_pos.mpr hval) hlast).elim id And.left).bind_error _

/-- A group the group stage comes to whose class field reaches past the view raises CorruptDictionary (R222 (c)). -/
theorem selectInQuarter_of_class_past {g : Nat} (hg : g < groupsPerQ) (hval : matchesBefore c st n one x.pos g < x.val)
    (hpast : c.dictWords ≤ (headerOf n).body + ((x.after c st n one g).pos + 3) / 64) :
    (selectInQuarter c (headerOf n) one x).Ends st (.error .corruptDictionary) := by
  obtain ⟨left, hleft⟩ : ∃ left, groupsPerQ = left + 1 + g := ⟨groupsPerQ - g - 1, by omega⟩
  have hgroup : (groupStage c (headerOf n) one (left + 1) (x.after c st n one g)).Ends st (.error .corruptDictionary) :=
    ((bodyField_ends_error hq n (w := classBits) (by decide) hpast).bind_error _).bind_error _
  have hskip := groupStage_skip hq n one (Cursor.after_val_pos.mpr hval) hgroup
  rw [← hleft] at hskip
  exact (hskip.elim id And.left).bind_error _

/-- The group stage finds the group that holds the bit, or a codeword up to its own reaches past the view (R190). -/
theorem groupStage_found {g : Nat} (hg : g < groupsPerQ) (hval : matchesBefore c st n one x.pos g < x.val)
    (hle : x.val ≤ matchesBefore c st n one x.pos (g + 1)) :
    (groupStage c (headerOf n) one groupsPerQ x).Ends st
        (.ok (groupClass c st n (x.after c st n one g).pos, x.after c st n one g)) ∨
      (groupStage c (headerOf n) one groupsPerQ x).Ends st (.error .corruptDictionary) ∧
        c.dictWords ≤ (headerOf n).body + ((x.after c st n one g).pos + 3 +
          c.rom.offsetBits (groupClass c st n (x.after c st n one g).pos)) / 64 := by
  obtain ⟨left, hleft⟩ : ∃ left, groupsPerQ = left + 1 + g := ⟨groupsPerQ - g - 1, by omega⟩
  have hpos := Cursor.after_val_pos.mpr hval
  rw [hleft]
  rcases groupCount_ends hq n (x.after c st n one g).pos with hcount | ⟨hcount, hpast⟩
  · have hgroup : (groupStage c (headerOf n) one (left + 1) (x.after c st n one g)).Ends st
        (.ok (groupClass c st n (x.after c st n one g).pos, x.after c st n one g)) := by
      refine hcount.bind_ok ?_
      rw [matchesBefore_succ] at hle
      rw [if_pos (by simp only [Cursor.after]; omega)]
      exact Engine.pure_ends _ st
    exact (groupStage_skip hq n one hpos hgroup).imp_right fun ⟨herr, hpast⟩ => ⟨herr, by omega⟩
  · have hgroup : (groupStage c (headerOf n) one (left + 1) (x.after c st n one g)).Ends st
        (.error .corruptDictionary) := hcount.bind_error _
    refine .inr ⟨(groupStage_skip hq n one hpos hgroup).elim id And.left, ?_⟩
    simp only [codewordEnd, classBits] at hpast
    simp only [groupClass]
    omega

/-- Where the class field lies in the view, the pattern's checks are those of `CodewordBad` (R222 (c), (d)). -/
theorem groupPattern_ends_cases (hrom : c.rom.wellFormed = true) {pos : Nat}
    (hclass : (headerOf n).body + (pos + 3) / 64 < c.dictWords) :
    CodewordBad c st n pos ∧
        (groupPattern c (headerOf n) pos (groupClass c st n pos)).Ends st (.error .corruptDictionary) ∨
      ¬CodewordBad c st n pos ∧
        (groupPattern c (headerOf n) pos (groupClass c st n pos)).Ends st (.ok (codewordPattern c st n pos)) := by
  have hw : c.rom.offsetBits (groupClass c st n pos) ≤ 64 :=
    (offsetBits_le hrom ((classField_le _ _).trans (by decide))).trans (by decide)
  have hpat := groupPattern_ends hq n pos hw hclass
  split at hpat
  case isTrue hbad => exact .inl ⟨hbad, hpat⟩
  case isFalse hgood => exact .inr ⟨hgood, hpat⟩

section
variable (hrom : c.rom.wellFormed = true) {g : Nat} (hg : g < groupsPerQ)
  (hval : matchesBefore c st n one x.pos g < x.val) (hle : x.val ≤ matchesBefore c st n one x.pos (g + 1))
include hrom hg hval hle

/-- A bad codeword of the group that holds the bit raises CorruptDictionary (R190, R222 (c), (d)). -/
theorem selectInQuarter_of_bad_codeword (hbad : CodewordBad c st n (x.after c st n one g).pos) :
    (selectInQuarter c (headerOf n) one x).Ends st (.error .corruptDictionary) := by
  by_cases hclass : (headerOf n).body + ((x.after c st n one g).pos + 3) / 64 < c.dictWords
  case neg => exact selectInQuarter_of_class_past hq n hg hval (Nat.not_lt.mp hclass)
  case pos =>
    rcases groupStage_found hq n hg hval hle with hfound | ⟨hpast, _⟩
    · rcases groupPattern_ends_cases hq n hrom hclass with ⟨_, hpat⟩ | ⟨hgood, _⟩
      · exact hfound.bind_ok (hpat.bind_error _)
      · exact absurd hbad hgood
    · exact hpast.bind_error _

/-- With a good codeword the bit stage decides (R190). -/
theorem selectInQuarter_of_good_codeword (hgood : ¬CodewordBad c st n (x.after c st n one g).pos)
    {o : Except ErrorKind Nat} (hbit : (bitStage (headerOf n) one (codewordPattern c st n (x.after c st n one g).pos)
      (x.after c st n one g)).Ends st o) : (selectInQuarter c (headerOf n) one x).Ends st o := by
  have hin := Nat.not_le.mp (not_or.mp hgood).1
  rcases groupStage_found hq n hg hval hle with hfound | ⟨_, hend⟩
  · rcases groupPattern_ends_cases hq n hrom (pos := (x.after c st n one g).pos) (by omega) with ⟨hbad, _⟩ | ⟨_, hpat⟩
    · exact absurd hbad hgood
    · exact hfound.bind_ok (hpat.bind_ok hbit)
  · omega

end

end

/-! ### The index stages (R190) -/

/-- The matching bits before L3 block `m`, as its index word gives them (R190). -/
def l3Value (c : Ctx) (st : Store) (n : Nat) (one : Bool) (m : Nat) : Int :=
  countOf one (m * l3Span) (u64 (dictEntry c st ((headerOf n).rankL3At m)))

/-- The matching bits of the L3 block whose first L12 block is `lo` before its `m`-th, as the index word gives them (R190). -/
def l12Value (c : Ctx) (st : Store) (n : Nat) (one : Bool) (lo m : Nat) : Int :=
  countOf one (m * l12Span) (c.pack.rb (dictEntry c st ((headerOf n).rankL12At (lo + m))))

/-- The number of L12 blocks of an L3 block whose first is `lo` (R190). -/
def l12Blocks (n lo : Nat) : Nat := min ((headerOf n).l12N - lo) l12PerL3

/-- An L3 block of the dictionary has an L12 block (R59). -/
theorem one_le_l12Blocks {n l3 : Nat} (h : l3 < (headerOf n).l3N) : 1 ≤ l12Blocks n (l3 * l12PerL3) := by
  simp only [l12Blocks, headerOf, l3Span, l12Span, l12PerL3] at h ⊢
  omega

/-- The cursor at the quarter chosen in the L12 block `lo + e` of L3 block `l3` (R190). -/
def quarterCursor (c : Ctx) (st : Store) (n : Nat) (one : Bool) (l3 lo e : Nat) (val : Int) : Cursor :=
  quarterStage c.pack n one (dictEntry c st ((headerOf n).rankL12At (lo + e)))
    (dictEntry c st ((headerOf n).posL12At (lo + e))) [1, 2, 3]
    ⟨val, u64 (dictEntry c st ((headerOf n).posL3At l3)) + c.pack.pb (dictEntry c st ((headerOf n).posL12At (lo + e))),
      (lo + e) * l12Span⟩

/-- `SelectCore` after the range check: the two index stages, then the quarter (R190). -/
theorem selectStages_eq (c : Ctx) (h : Header) (one : Bool) (val : Int) :
    selectStages c h one val = (l3Stage c h one val).bind fun x => (l12Stage c h one x.1 x.2.1 x.2.2).bind fun y =>
      selectInQuarter c h one (quarterStage c.pack h.n one y.2.1 y.2.2 [1, 2, 3] y.1) := rfl

section
variable {c : Ctx} {st : Store} {n : Nat} (h : HeaderOk c st n) {one : Bool} {val val₃ val₁₂ : Int} {l3 e : Nat}
  (hl3 : bsearchGT (headerOf n).l3N (fun m => .pure (l3Value c st n one m)) val st 0 = .ret l3 0)
  (hval₃ : val₃ = val - l3Value c st n one l3)
include hl3

/-- The L3 block chosen is one of the dictionary's (R141). -/
theorem l3_lt : l3 < (headerOf n).l3N := (bsearchGT_ends_of_values (Nat.le_add_left 1 _) hl3).1

include h hval₃

/-- The L3 stage in the block its search chooses (R190, R222 (f)). -/
theorem l3Stage_ends : (l3Stage c (headerOf n) one val).Ends st
    (if val₃ < 1 then .error .corruptDictionary
      else .ok (l3, val₃, u64 (dictEntry c st ((headerOf n).posL3At l3)))) := by
  have hlt := l3_lt hl3
  obtain ⟨-, hsearch⟩ := bsearchGT_ends_of_values (Nat.le_add_left 1 _) hl3
  have hbody : (headerOf n).body = 1 + 2 * (headerOf n).l3N + 2 * (headerOf n).l12N := rfl
  have hcount : ∀ m < (headerOf n).l3N, (l3Count c (headerOf n) one m).Ends st (.ok (l3Value c st n one m)) :=
    fun m hm => (h.indexWord_ends (by rw [Header.rankL3At]; omega)).bind_ok (Engine.pure_ends _ st)
  refine (hsearch _ hcount).bind_ok ((hcount l3 hlt).bind_ok ?_)
  refine (h.indexWord_ends (by rw [Header.posL3At]; omega)).bind_ok ?_
  rw [← hval₃]
  split
  · exact Engine.raise_ends _ st
  · exact Engine.pure_ends _ st

/-- An L3 block that leaves no bit to find raises CorruptDictionary (R222 (f)). -/
theorem selectStages_of_l3 (hlow : val₃ < 1) :
    (selectStages c (headerOf n) one val).Ends st (.error .corruptDictionary) := by
  have hstage := l3Stage_ends h hl3 hval₃
  rw [if_pos hlow] at hstage
  exact hstage.bind_error _

variable (hl12 : bsearchGT (l12Blocks n (l3 * l12PerL3))
    (fun m => .pure (l12Value c st n one (l3 * l12PerL3) m)) val₃ st 0 = .ret e 0)
  (hval₁₂ : val₁₂ = val₃ - l12Value c st n one (l3 * l12PerL3) e)
include hl12 hval₁₂

omit hval₃ in
/-- The L12 stage in the block its search chooses (R190, R222 (f)). -/
theorem l12Stage_ends (pos : Nat) : (l12Stage c (headerOf n) one l3 val₃ pos).Ends st
    (if val₁₂ < 1 then .error .corruptDictionary
      else .ok (⟨val₁₂, pos + c.pack.pb (dictEntry c st ((headerOf n).posL12At (l3 * l12PerL3 + e))),
          (l3 * l12PerL3 + e) * l12Span⟩,
        dictEntry c st ((headerOf n).rankL12At (l3 * l12PerL3 + e)),
        dictEntry c st ((headerOf n).posL12At (l3 * l12PerL3 + e)))) := by
  obtain ⟨hlt, hsearch⟩ := bsearchGT_ends_of_values (one_le_l12Blocks (l3_lt hl3)) hl12
  have hbody : (headerOf n).body = 1 + 2 * (headerOf n).l3N + 2 * (headerOf n).l12N := rfl
  have hblocks : l12Blocks n (l3 * l12PerL3) ≤ (headerOf n).l12N - l3 * l12PerL3 := min_le_left _ _
  have hrank : ∀ m < l12Blocks n (l3 * l12PerL3), (dictWord c ((headerOf n).rankL12At (l3 * l12PerL3 + m))).Ends st
      (.ok (dictEntry c st ((headerOf n).rankL12At (l3 * l12PerL3 + m)))) :=
    fun m hm => h.indexWord_ends (by rw [Header.rankL12At]; omega)
  have hcount : ∀ m < l12Blocks n (l3 * l12PerL3), (l12Count c (headerOf n) one (l3 * l12PerL3) m).Ends st
      (.ok (l12Value c st n one (l3 * l12PerL3) m)) := fun m hm => (hrank m hm).bind_ok (Engine.pure_ends _ st)
  refine (hsearch _ hcount).bind_ok ((hcount e hlt).bind_ok ((hrank e hlt).bind_ok ?_))
  refine (h.indexWord_ends (by rw [Header.posL12At]; omega)).bind_ok ?_
  rw [← hval₁₂]
  split
  · exact Engine.raise_ends _ st
  · exact Engine.pure_ends _ st

/-- An L12 block that leaves no bit to find raises CorruptDictionary, if the L3 block has not (R222 (f)). -/
theorem selectStages_of_l12 (hlow : val₁₂ < 1) :
    (selectStages c (headerOf n) one val).Ends st (.error .corruptDictionary) := by
  by_cases h₃ : val₃ < 1
  · exact selectStages_of_l3 h hl3 hval₃ h₃
  · have hstage₃ := l3Stage_ends h hl3 hval₃
    have hstage₁₂ := l12Stage_ends h hl3 hl12 hval₁₂ (u64 (dictEntry c st ((headerOf n).posL3At l3)))
    rw [if_neg h₃] at hstage₃
    rw [if_pos hlow] at hstage₁₂
    exact hstage₃.bind_ok (hstage₁₂.bind_error _)

/-- Where both index stages leave bits to find, the quarter chosen decides (R190). -/
theorem selectStages_of_quarter (h₃ : 1 ≤ val₃) (h₁₂ : 1 ≤ val₁₂) {o : Except ErrorKind Nat}
    (hquarter : (selectInQuarter c (headerOf n) one (quarterCursor c st n one l3 (l3 * l12PerL3) e val₁₂)).Ends st o) :
    (selectStages c (headerOf n) one val).Ends st o := by
  have hstage₃ := l3Stage_ends h hl3 hval₃
  have hstage₁₂ := l12Stage_ends h hl3 hl12 hval₁₂ (u64 (dictEntry c st ((headerOf n).posL3At l3)))
  rw [if_neg (not_lt.mpr h₃)] at hstage₃
  rw [if_neg (not_lt.mpr h₁₂)] at hstage₁₂
  rw [selectStages_eq]
  exact hstage₃.bind_ok (hstage₁₂.bind_ok hquarter)

/-- An error in the quarter chosen is the command's, or an index stage has raised it before (R190, R222). -/
theorem selectStages_of_quarter_error
    (hquarter : (selectInQuarter c (headerOf n) one (quarterCursor c st n one l3 (l3 * l12PerL3) e val₁₂)).Ends st
      (.error .corruptDictionary)) :
    (selectStages c (headerOf n) one val).Ends st (.error .corruptDictionary) := by
  by_cases h₃ : val₃ < 1
  · exact selectStages_of_l3 h hl3 hval₃ h₃
  by_cases h₁₂ : val₁₂ < 1
  · exact selectStages_of_l12 h hl3 hval₃ hl12 hval₁₂ h₁₂
  exact selectStages_of_quarter h hl3 hval₃ hl12 hval₁₂ (not_lt.mp h₃) (not_lt.mp h₁₂) hquarter

end

end Sys2Proof.Machine
end

section
/-! SUPPORT and the proof about the checks of SELECT1 and SELECT0 on any dictionary words (R190 to R193, R222). -/

namespace Sys2Proof.Machine

/-! ### Reads of a quiet store never fail -/

/-- A computation that reads only where no read fails does not end with StorageIO (R223). -/
theorem Engine.Built.not_storageIO {α : Type} {es : List ErrorKind} {m : Engine α} {P : Nat → Prop} {st : Store}
    (hb : m.Built es) (hr : m.ReadsOnly P) (hq : ∀ a, P a → ∀ k, st.fails a k = false) {k k' : Nat} {info : Word} :
    m st k ≠ .err .storageIO info k' := by
  intro herr
  have hsame : m st k = m { st with failing := [] } k :=
    hr st _ (fun a ha k => by simp only [Store.respond, hq a ha k]; rfl) k
  obtain ⟨a, j, hfail, -⟩ := hb.storageIO_of_failing_read (hsame ▸ herr)
  exact nomatch hfail

/-- The words of a dictionary view start where its bytes lie (R57). -/
theorem dictWord_readsOnly_view (c : Ctx) (j : Nat) :
    (dictWord c j).ReadsOnly fun a => c.dictAddr 0 ≤ a ∧ a < c.dictAddr 0 + 8 * c.dictWords := by
  refine .ite (fun _ => .raise _ _) fun hj => memRead_readsOnly ?_
  simp only [Ctx.dictAddr]
  omega

/-- The stages of `SelectCore` on a quiet view raise CorruptDictionary alone (R190, R222). -/
theorem HeaderOk.selectStages_err {c : Ctx} {st : Store} {n : Nat} (h : HeaderOk c st n) {hd : Header} {one : Bool}
    {val : Int} {k k' : Nat} {e : ErrorKind} {info : Word} (herr : selectStages c hd one val st k = .err e info k') :
    e = .corruptDictionary := by
  have hbuilt : (selectStages c hd one val).Built [.corruptDictionary, .storageIO] :=
    selectStages_built (by decide) (by decide) c hd one val
  have hio := hbuilt.not_storageIO (selectStages_readsOnly (dictWord_readsOnly_view c) hd one val)
    (fun a ⟨hlo, hhi⟩ k => (h.quiet a hlo hhi).2 k) (k := k) (k' := k') (info := info)
  obtain ⟨hmem, -⟩ := hbuilt.raisesOnly st k e info k' herr
  simp only [List.mem_cons, List.not_mem_nil, or_false] at hmem
  refine hmem.resolve_right fun he => hio ?_
  rw [herr, he]

/-- What the stages of `SelectCore` answer lies below `n` (R190). -/
theorem selectStages_ret_lt {c : Ctx} {hd : Header} {one : Bool} {val : Int} {st : Store} {k k' v : Nat}
    (hr : selectStages c hd one val st k = .ret v k') : v < hd.n := by
  obtain ⟨_, _, -, hr⟩ := Engine.bind_eq_ret.mp hr
  obtain ⟨_, _, -, hr⟩ := Engine.bind_eq_ret.mp hr
  obtain ⟨_, _, -, hr⟩ := Engine.bind_eq_ret.mp hr
  obtain ⟨_, _, -, hr⟩ := Engine.bind_eq_ret.mp hr
  exact bitStage_ret_lt hr

/-! ### The commands after the range check (R191) -/

/-- SELECT1, or SELECT0 (R192, R193). -/
def selectInstr (one : Bool) : Instr := if one then .select1 else .select0

theorem commandOf_selectInstr (one : Bool) (c : Ctx) : commandOf (selectInstr one) c = selectCore one c := by
  cases one <;> rfl

/-- The dictionary's header is good and its count admits `k` (R74, R191). -/
structure SelectAdmits (c : Ctx) (st : Store) (n : Nat) (one : Bool) (k : Nat) : Prop where
  header : HeaderOk c st n
  rom : c.rom.wellFormed = true
  key : c.arg0S = k
  total : ∃ p : Nat, (totalOnes c (headerOf n)).Ends st (.ok p) ∧ (k : Int) < countOf one n p

/-- The last group's checks end with CorruptDictionary or a count of at most `i + 1` (R161, R222). -/
theorem lastGroupOutcome_cases (c : Ctx) (st : Store) (n i : Nat) (x : Nat × Nat) :
    lastGroupOutcome c st n i x = .error .corruptDictionary ∨ ∃ r ≤ i + 1, lastGroupOutcome c st n i x = .ok r := by
  unfold lastGroupOutcome
  split
  case isTrue => exact .inl rfl
  case isFalse hgood =>
    simp only [not_or, Nat.not_lt] at hgood
    exact .inr ⟨_, hgood.2.2, rfl⟩

theorem s64_ofNat {m : Nat} (h : m < 2 ^ 63) : s64 (BitVec.ofNat 64 m) = m := by
  have hm : (BitVec.ofNat 64 m).toNat = m := by
    rw [BitVec.toNat_ofNat]
    omega
  rw [s64, BitVec.toInt_eq_toNat_of_lt (by omega), hm]

theorem toNat_zext64 {v : Nat} (h : v < 2 ^ 64) : (zext64 v).toNat = v := by
  rw [zext64, BitVec.toNat_ofNat, Nat.mod_eq_of_lt h]

/-- `P` is what RANK1 of `n - 1` answers (R191). -/
theorem totalOnes_of_rank1 {s u : State} {n : Nat} (h : HeaderOk s.ctx s.store n) (hrom : s.rom.wellFormed = true)
    (hn : 1 ≤ n) (hu : exec .rank1 (s.withArg0 (BitVec.ofNat 64 (n - 1))) = .next u) (hok : u.errcode = none) :
    (totalOnes s.ctx (headerOf n)).Ends s.store (.ok u.result.toNat) := by
  have hlen := h.length
  have htotal : totalOnes s.ctx (headerOf n) = rank1Core s.ctx (headerOf n) (n - 1) :=
    if_neg (show ¬ n = 0 by omega)
  have hends := rank1Core_ends h hrom (i := n - 1) (by omega)
  obtain ⟨hcorrupt, hsuccess⟩ := exec_rank_of_headerOk (s := s.withArg0 (BitVec.ofNat 64 (n - 1)))
    { h with } hrom (s64_ofNat (by omega)) (by omega)
  rw [htotal]
  rcases lastGroupOutcome_cases s.ctx s.store n (n - 1) (rankCursor s.ctx s.store n (n - 1)) with he | ⟨r, hr, he⟩
  · obtain ⟨⟨q, hfail⟩, -⟩ := hcorrupt he
    cases hu.symm.trans hfail
    cases hok
  · obtain ⟨q, hrank, -⟩ := hsuccess r he
    cases hu.symm.trans hrank
    have hresult : (zext64 r).toNat = r := toNat_zext64 (by omega)
    rw [he] at hends
    exact hresult.symm ▸ hends

/-- Past the range check the command is the stages of `SelectCore` (R190, R191). -/
theorem SelectAdmits.selectCore_run {c : Ctx} {st : Store} {n k : Nat} {one : Bool} (h : SelectAdmits c st n one k) :
    ∃ d, ∀ j, selectCore one c st j =
      ((selectStages c (headerOf n) one (k + 1)).bind fun r => .pure (zext64 r)) st (j + d) := by
  obtain ⟨p, ⟨d, htotal⟩, hadmits⟩ := h.total
  have hkey := h.key
  have hrange : ¬ countOf one (headerOf n).n p ≤ c.arg0S := by
    rw [hkey]
    exact not_le.mpr hadmits
  refine ⟨1 + d, fun j => ?_⟩
  rw [selectCore, if_neg (by omega), Engine.bind_ret (h.header.dictHeader_endsAfter j), Engine.bind_ret (htotal _),
    if_neg hrange, hkey, Nat.add_assoc]

theorem SelectAdmits.selectCore_ends {c : Ctx} {st : Store} {n k : Nat} {one : Bool} (h : SelectAdmits c st n one k)
    {o : Except ErrorKind Nat} (ho : (selectStages c (headerOf n) one (k + 1)).Ends st o) :
    (selectCore one c).Ends st (o.map zext64) := by
  obtain ⟨d, hrun⟩ := h.selectCore_run
  obtain ⟨d', hd'⟩ := ho
  exact ⟨d + d', fun j => by rw [hrun, hd'.bind_pure zext64, Nat.add_assoc]⟩

section
variable {s : State} {n k : Nat} {one : Bool} (h : SelectAdmits s.ctx s.store n one k)
include h

theorem SelectAdmits.endsCorrupt
    (hstages : (selectStages s.ctx (headerOf n) one (k + 1)).Ends s.store (.error .corruptDictionary)) :
    s.endsCorrupt (selectInstr one) := by
  obtain ⟨q, hq⟩ := h.selectCore_ends hstages
  rw [← commandOf_selectInstr] at hq
  exact ⟨q, exec_failsWith_of_endsAfter hq⟩

theorem SelectAdmits.succeeds {v : Nat}
    (hstages : (selectStages s.ctx (headerOf n) one (k + 1)).Ends s.store (.ok v)) :
    ∃ q, exec (selectInstr one) s = .next (s.succeeds (zext64 v) q) := by
  obtain ⟨q, hq⟩ := h.selectCore_ends hstages
  rw [← commandOf_selectInstr] at hq
  exact ⟨q, exec_succeeds_of_endsAfter hq⟩

/-- Every error is CorruptDictionary and every answer lies below `n` (R190, R222). -/
theorem SelectAdmits.completion {t : State} (ht : exec (selectInstr one) s = .next t) :
    (t.errcode = none ∨ t.errcode = some .corruptDictionary) ∧ (t.errcode = none → t.result.toNat < n) := by
  obtain ⟨d, hrun⟩ := h.selectCore_run
  rw [exec_next] at ht
  rcases runCommand_cases s (commandOf (selectInstr one)) with ⟨v, j, hr, hc⟩ | ⟨e, info, j, hr, hc⟩
  · rw [commandOf_selectInstr, hrun, Engine.bind_eq_ret] at hr
    obtain ⟨r, _, hstages, hpure⟩ := hr
    cases hpure
    have hlt : r < n := selectStages_ret_lt hstages
    have hlen := h.header.length
    rw [← ht, hc]
    refine ⟨.inl rfl, fun _ => ?_⟩
    show (zext64 r).toNat < n
    rwa [toNat_zext64 (by omega)]
  · rw [commandOf_selectInstr, hrun, Engine.bind_eq_err] at hr
    obtain hstages | ⟨_, _, _, hpure⟩ := hr
    · rw [← ht, hc, h.header.selectStages_err hstages]
      exact ⟨.inr rfl, nofun⟩
    · cases hpure

end

/-- What the first part of the obligation on SELECT1 and SELECT0 supposes. -/
theorem selectAdmits_of_rank1 {s u : State} {n k : Nat} {one : Bool} (h : HeaderOk s.ctx s.store n)
    (hrom : s.rom.wellFormed = true) (hn : 1 ≤ n) (hkey : s.ctx.arg0S = k)
    (hu : exec .rank1 (s.withArg0 (BitVec.ofNat 64 (n - 1))) = .next u) (hok : u.errcode = none)
    (hk : (k : Int) < countOf one n u.result.toNat) : SelectAdmits s.ctx s.store n one k :=
  ⟨h, hrom, hkey, _, totalOnes_of_rank1 h hrom hn hu hok, hk⟩

/-- The error cases of the bit stage (R190, R222 (f)). -/
theorem bitStage_run_corrupt {h : Header} {one : Bool} {p : Pattern} {x : Cursor} (st : Store) (k : Nat)
    (hbad : (((List.range 16).countP fun j => p.getLsbD (15 - j) == one : Nat) : Int) < x.val ∨
      ∃ j, j < 16 ∧ p.getLsbD (15 - j) = one ∧
        (((List.range j).countP fun j => p.getLsbD (15 - j) == one : Nat) : Int) + 1 = x.val ∧ h.n ≤ x.sel + j) :
    bitStage h one p x st k = .err .corruptDictionary 0 k := by
  rcases hbad with hlack | ⟨j, hj, hbit, hcount, hn⟩
  · rw [bitStage_of_lacking hlack, Engine.raise_run]
  · rw [bitStage_of_beyond hj hbit hcount hn, Engine.raise_run]

/-- Settles O59: the searches choose the blocks, the group stage passes groups as their codewords stand, and each check
stands at its stage. -/
theorem selectChecksRaiseCorruptDictionary : Obligations.SelectChecksRaiseCorruptDictionary := by
  unfold Obligations.SelectChecksRaiseCorruptDictionary
  refine ⟨?_, fun one h p x st k hbad => bitStage_run_corrupt st k hbad⟩
  rintro one _ s u n k _ rfl h hrom hn hkey hu hok hk rfl
  have hadmits := selectAdmits_of_rank1 h hrom hn hkey hu hok hk
  have hcorrupt := hadmits.endsCorrupt
  refine ⟨fun t ht => hadmits.completion ht, fun hall => ?_, ?_⟩
  · obtain ⟨l3, hlt, hl3, -⟩ := bsearchGT_ends (Nat.le_add_left 1 _) (l3Value s.ctx s.store n one) (k + 1)
    have hle : (k : Int) + 1 ≤ l3Value s.ctx s.store n one l3 := hall l3 hlt
    exact hcorrupt (selectStages_of_l3 h (hl3 s.store 0) rfl (by omega))
  rintro l3 _ _ val₃ hl3 rfl rfl hval₃
  refine ⟨fun hlow => hcorrupt (selectStages_of_l3 h hl3 hval₃ hlow), fun hall => ?_, ?_⟩
  · obtain ⟨e, hlt, hl12, -⟩ := bsearchGT_ends (one_le_l12Blocks (l3_lt hl3))
      (l12Value s.ctx s.store n one (l3 * l12PerL3)) val₃
    have hle : val₃ ≤ l12Value s.ctx s.store n one (l3 * l12PerL3) e := hall e hlt
    exact hcorrupt (selectStages_of_l12 h hl3 hval₃ (hl12 s.store 0) rfl (by omega))
  rintro e _ _ val₁₂ x hl12 rfl rfl hval₁₂ hx
  have hquarter := selectStages_of_quarter h hl3 hval₃ hl12 hval₁₂
  have hquarterError := selectStages_of_quarter_error h hl3 hval₃ hl12 hval₁₂
  rw [← show x = quarterCursor s.ctx s.store n one l3 (l3 * l12PerL3) e val₁₂ from hx] at hquarter hquarterError
  refine ⟨fun hlow => hcorrupt (selectStages_of_l12 h hl3 hval₃ hl12 hval₁₂ hlow), fun hexhausted => ?_, ?_⟩
  · exact hcorrupt (hquarterError (selectInQuarter_of_exhausted h.quiet n hexhausted))
  rintro g _ _ _ _ hg hval rfl rfl rfl rfl
  refine ⟨fun hpast => hcorrupt (hquarterError (selectInQuarter_of_class_past h.quiet n hg hval hpast)), fun hle => ?_⟩
  have hcodeword (hbad : CodewordBad s.ctx s.store n (x.after s.ctx s.store n one g).pos) :=
    hcorrupt (hquarterError (selectInQuarter_of_bad_codeword h.quiet n hrom hg hval hle hbad))
  refine ⟨fun hpast => hcodeword (.inl hpast), fun hin => ⟨fun hoffset => hcodeword (.inr hoffset), ?_⟩⟩
  intro hentry h₃ h₁₂ j hj hbit hcount
  have hgood : ¬CodewordBad s.ctx s.store n (x.after s.ctx s.store n one g).pos :=
    not_or.mpr ⟨Nat.not_le.mpr hin, Nat.not_le.mpr hentry⟩
  have hbits {o : Except ErrorKind Nat} := selectInQuarter_of_good_codeword h.quiet n hrom hg hval hle hgood (o := o)
  refine ⟨fun hbeyond => hcorrupt (hquarterError (hbits ?_)), fun hlt => hadmits.succeeds (hquarter h₃ h₁₂ (hbits ?_))⟩
  · have hstage := bitStage_of_beyond (h := headerOf n) (x := x.after s.ctx s.store n one g) hj hbit hcount hbeyond
    exact hstage ▸ Engine.raise_ends _ _
  · have hstage := bitStage_of_below (h := headerOf n) (x := x.after s.ctx s.store n one g) hj hbit hcount hlt
    exact hstage ▸ Engine.pure_ends _ _

end Sys2Proof.Machine
end

section
/-! SUPPORT and proofs about command words and the lines of a host program (R80 to R88, R225). -/

namespace Sys2Proof.Machine

/-! ### The opcode map and the fields of a word -/

theorem opcodeOf_instr {r : OpcodeRow} (h : r ∈ opcodeMap) : opcodeOf r.instr = r.opcode := by
  have hrows : ∀ r ∈ opcodeMap, opcodeOf r.instr = r.opcode := by decide
  exact hrows r h

theorem opcodeOf_of_lookupOpcode {op : BitVec 8} {i : Instr} (h : lookupOpcode op = some i) : opcodeOf i = op := by
  obtain ⟨r, hfind, rfl⟩ := Option.map_eq_some_iff.mp h
  have hop : r.opcode = op := by simpa using List.find?_some hfind
  rw [opcodeOf_instr (List.mem_of_find?_eq_some hfind), hop]

/-- The OPCODEs without a row are those R83 lists. -/
theorem lookupOpcode_eq_none_iff {op : BitVec 8} : lookupOpcode op = none ↔
    (op.toNat = 0x00 ∨ (0x04 ≤ op.toNat ∧ op.toNat ≤ 0x07) ∨ (0x09 ≤ op.toNat ∧ op.toNat ≤ 0x0F) ∨
      (0x14 ≤ op.toNat ∧ op.toNat ≤ 0x1F) ∨ 0x23 ≤ op.toNat) := by
  have hrows : lookupOpcode op = none ↔ ∀ r ∈ opcodeMap, r.opcode.toNat ≠ op.toNat := by
    simp [lookupOpcode, BitVec.toNat_inj]
  simp only [hrows, opcodeMap, List.forall_mem_cons, List.not_mem_nil, false_imp_iff, implies_true,
    and_true, BitVec.reduceToNat]
  omega

theorem toNat_opcodeField (w : Word) : (opcodeField w).toNat = w.toNat % 256 := by
  simp [opcodeField, BitVec.extractLsb'_toNat]

theorem reservedField_eq_zero_iff {w : Word} : reservedField w = 0 ↔ w.toNat / 256 = 0 := by
  have hlt : w.toNat / 2 ^ 8 < 2 ^ 56 := by omega
  rw [← BitVec.toNat_inj, reservedField, BitVec.extractLsb'_toNat, Nat.shiftRight_eq_div_pow, Nat.mod_eq_of_lt hlt]
  exact Iff.rfl

/-- A word without reserved bits is its OPCODE, zero-extended (R88). -/
theorem zeroExtend_opcodeField {w : Word} (h : reservedField w = 0) : (opcodeField w).zeroExtend 64 = w := by
  have hhigh := reservedField_eq_zero_iff.mp h
  apply BitVec.eq_of_toNat_eq
  rw [BitVec.toNat_setWidth, toNat_opcodeField]
  omega

/-! ### decode -/

/-- A word decodes to a command exactly when it is the command's word (R82, R84, R88). -/
theorem decode_eq_command_iff {w : Word} {i : Instr} : decode w = .command i ↔ encode i = w := by
  refine ⟨fun h => ?_, fun h => h ▸ decode_encode i⟩
  simp only [decode] at h
  split at h
  next hrsv =>
    cases hop : lookupOpcode (opcodeField w) with
    | some j =>
      obtain rfl : j = i := by simpa [hop] using h
      rw [encode, opcodeOf_of_lookupOpcode hop, zeroExtend_opcodeField hrsv]
    | none => simp [hop] at h
  next => cases h

/-- A word is illegal when a reserved bit is set or its OPCODE has no row (R83). -/
theorem decode_illegal_iff {w : Word} :
    (∃ y, decode w = .illegal y) ↔ reservedField w ≠ 0 ∨ lookupOpcode (opcodeField w) = none := by
  simp only [decode]
  split
  next hrsv => cases hop : lookupOpcode (opcodeField w) <;> simp [hrsv]
  next hrsv => exact ⟨fun _ => .inl hrsv, fun _ => ⟨_, rfl⟩⟩

/-- Settles O2: a word decodes to a command exactly when it is that command's word. -/
theorem everyWordDecodesToOneCommandOrIllegal : Obligations.EveryWordDecodesToOneCommandOrIllegal := by
  unfold Obligations.EveryWordDecodesToOneCommandOrIllegal
  intro w
  cases hw : decode w with
  | command i =>
    refine .inl ⟨i, rfl, decode_eq_command_iff.mp hw, fun j hj => ?_⟩
    simpa [hw] using (decode_eq_command_iff.mpr hj).symm
  | illegal y =>
    refine .inr ⟨⟨y, rfl⟩, fun j hj => ?_⟩
    simpa [hw] using decode_eq_command_iff.mpr hj

/-- Settles O3: the two causes of an illegal word, each read off the word's value. -/
theorem illegalWordsAreThoseListed : Obligations.IllegalWordsAreThoseListed := by
  unfold Obligations.IllegalWordsAreThoseListed
  intro w
  rw [decode_illegal_iff, lookupOpcode_eq_none_iff, toNat_opcodeField, ne_eq, reservedField_eq_zero_iff]

/-- Settles O1: each word is its command's encoding; the last two have no OPCODE row and a reserved bit. -/
theorem commandWordsDecodeAsTabled : Obligations.CommandWordsDecodeAsTabled :=
  ⟨decode_encode .getbit, decode_encode .getfield, decode_encode .getfieldx, decode_encode .arrayrank,
    decode_encode .rank1, decode_encode .rank0, decode_encode .select1, decode_encode .select0,
    decode_encode .romOffsetbits, decode_encode .romDecode, decode_encode .romSmallrank, by decide, by decide⟩

/-! ### An illegal word's completion -/

theorem issueLatency_illegal {w : Word} {y : Illegal} (h : decode w = .illegal y) (draw : Nat) :
    issueLatency w draw = 0 := by
  simp only [issueLatency, h]

/-- Settles O8: one step issues the word with no time to wait, and the next completes it. -/
theorem illegalCommandCompletesAtOnce : Obligations.IllegalCommandCompletesAtOnce := by
  unfold Obligations.IllegalCommandCompletesAtOnce
  intro s w y hi hin hw
  have hissue := step_issue hi hin
  rw [issueLatency_illegal hw] at hissue
  set u := { State.issue { s with inputs := [], readData := none } w 0 with draws := s.draws + 1 }
  have hrun : Sys2Proof.core.run (0 + 1) u = _ := core_run_in_flight rfl rfl rfl
  have hend := finishCommand_illegal (s := { u with wait := 0, readData := none }) hw
  exact ⟨_, (core_run_next hissue 1).trans (hrun.trans hend), rfl, rfl, rfl, rfl, rfl, rfl, rfl, rfl, rfl, rfl, rfl,
    rfl, rfl, rfl, rfl⟩

/-! ### Lines of a host program -/

/-- Every command line is its operand writes, at most three and in ARG order, before the line without operands (R87). -/
theorem expand_command_append (n : Nat) (i : Instr) (operands : List HostValue) :
    (HostLine.command i operands).expand n =
      (List.zip [Reg.arg0, .arg1, .arg2] operands).map (fun x => .wr x.1 x.2) ++ (HostLine.command i []).expand n := rfl

/-- Settles O60: the operand writes precede the command's own accesses, and every other line is its register writes. -/
theorem commandLineExpansion : Obligations.CommandLineExpansion := by
  unfold Obligations.CommandLineExpansion
  intro n i a b c
  exact ⟨rfl, expand_command_append n i [a], expand_command_append n i [a, b], expand_command_append n i [a, b, c],
    rfl, rfl, rfl, rfl⟩

end Sys2Proof.Machine
end

section
/-! SUPPORT and proofs about the rank-table ROM: set bits, `smallRank`, ascending tables, class 0 (R12, R100, R102,
R103). -/

namespace Sys2Proof.Machine

/-! ### Counting set bits (R12) -/

theorem onesBelow_bit (b : Bool) (v n : Nat) : onesBelow (Nat.bit b v) (n + 1) = onesBelow v n + b.toNat := by
  induction n with
  | zero => cases b <;> simp [onesBelow]
  | succ n ih => rw [onesBelow, ih, onesBelow, Nat.testBit_bit_succ, Nat.add_right_comm]

theorem onesBelow_congr {u v n : Nat} (h : ∀ j < n, u.testBit j = v.testBit j) : onesBelow u n = onesBelow v n := by
  induction n with
  | zero => rfl
  | succ n ih => rw [onesBelow, onesBelow, ih fun j hj => h j (by omega), h n (by omega)]

/-- The bits above a number's top bit are clear. -/
theorem onesBelow_succ_of_lt {v n : Nat} (h : v < 2 ^ n) : onesBelow v (n + 1) = onesBelow v n := by
  simp [onesBelow, Nat.testBit_lt_two_pow h]

/-- A set top bit counts one. -/
theorem onesBelow_two_pow_add {v n : Nat} (h : v < 2 ^ n) : onesBelow (2 ^ n + v) (n + 1) = onesBelow v n + 1 := by
  have hlow : onesBelow (2 ^ n + v) n = onesBelow v n :=
    onesBelow_congr fun j hj => Nat.testBit_two_pow_add_gt hj v
  simp [onesBelow, hlow, Nat.testBit_two_pow_add_eq, Nat.testBit_lt_two_pow h]

/-! ### smallRank (R103) -/

@[simp] theorem smallRank_zero (p : Pattern) : smallRank p 0 = 0 := by
  rw [smallRank, Nat.sub_zero, BitVec.ushiftRight_eq_zero (le_refl _)]
  rfl

@[simp] theorem smallRank_sixteen (p : Pattern) : smallRank p 16 = popcount p := by
  simp [smallRank]

/-- One group bit more is one register bit less shifted out, the least significant of what is left (R103). -/
theorem smallRank_succ (p : Pattern) {l : Nat} (h : l < 16) :
    smallRank p (l + 1) = smallRank p l + (p.getLsbD (15 - l)).toNat := by
  have hbit : (p >>> (16 - (l + 1))).toNat = Nat.bit (p.getLsbD (15 - l)) (p >>> (16 - l)).toNat := by
    refine Nat.eq_of_testBit_eq fun j => ?_
    cases j with
    | zero => simp [BitVec.getLsbD, show 16 - (l + 1) = 15 - l by omega]
    | succ j =>
      simp only [Nat.testBit_bit_succ, BitVec.testBit_toNat, BitVec.getLsbD_ushiftRight]
      congr 1
      omega
  rw [smallRank, popcount, ← onesBelow_succ_of_lt (BitVec.isLt _), hbit, onesBelow_bit, smallRank, popcount]

/-- `smallRank` counts the first bits of a group (R103). -/
theorem smallRank_eq_countP (p : Pattern) {l : Nat} (h : l ≤ 16) :
    smallRank p l = (List.range l).countP fun j => p.getLsbD (15 - j) := by
  induction l with
  | zero => simp
  | succ l ih =>
    rw [smallRank_succ p h, ih (by omega), List.range_succ, List.countP_append, List.countP_singleton]
    cases p.getLsbD (15 - l) <;> rfl

/-! ### Tables in ascending order (R102) -/

theorem nthPattern_lt (b ones o : Nat) : nthPattern b ones o < 2 ^ b := by
  induction b generalizing ones o with
  | zero => simp [nthPattern]
  | succ b ih =>
    rw [nthPattern, Nat.pow_succ]
    split
    · have := ih ones o
      omega
    · have := ih (ones - 1) (o - b.choose ones)
      omega

/-- The numbers below `m` with `ones` set bits among their low `b`. -/
def patternsBelow (b ones m : Nat) : Nat := (List.range m).countP fun v => onesBelow v b == ones

/-- Below `2 ^ b` bit `b` is clear. -/
theorem patternsBelow_of_le {b m : Nat} (h : m ≤ 2 ^ b) (ones : Nat) :
    patternsBelow (b + 1) ones m = patternsBelow b ones m := by
  refine List.countP_congr fun v hv => ?_
  rw [onesBelow_succ_of_lt ((List.mem_range.mp hv).trans_le h)]

/-- From `2 ^ b` on bit `b` is one of the set bits. -/
theorem patternsBelow_two_pow_add {b m : Nat} (h : m ≤ 2 ^ b) (ones : Nat) :
    patternsBelow (b + 1) ones (2 ^ b + m) = patternsBelow b ones (2 ^ b) +
      (List.range m).countP fun v => onesBelow v b + 1 == ones := by
  rw [patternsBelow, List.range_add, List.countP_append, List.countP_map, ← patternsBelow,
    patternsBelow_of_le (le_refl _)]
  refine congrArg _ (List.countP_congr fun v hv => ?_)
  rw [Function.comp_apply, onesBelow_two_pow_add ((List.mem_range.mp hv).trans_le h)]

theorem patternsBelow_succ_two_pow_add {b m : Nat} (h : m ≤ 2 ^ b) (ones : Nat) :
    patternsBelow (b + 1) (ones + 1) (2 ^ b + m) = patternsBelow b (ones + 1) (2 ^ b) + patternsBelow b ones m := by
  simpa [patternsBelow] using patternsBelow_two_pow_add h (ones + 1)

/-- `C(b, ones)` numbers below `2 ^ b` have `ones` set bits. -/
theorem patternsBelow_two_pow (b ones : Nat) : patternsBelow b ones (2 ^ b) = b.choose ones := by
  induction b generalizing ones with
  | zero => cases ones <;> simp [patternsBelow, onesBelow]
  | succ b ih =>
    rw [Nat.pow_succ, Nat.mul_two]
    cases ones with
    | zero => simp [patternsBelow_two_pow_add (le_refl _), ih]
    | succ ones => rw [patternsBelow_succ_two_pow_add (le_refl _), ih, ih, Nat.choose_succ_succ, Nat.add_comm]

/-- Entry `o` has the class's set bits, and `o` numbers with as many lie below it (R102). -/
theorem nthPattern_spec {b ones o : Nat} (h : o < b.choose ones) :
    onesBelow (nthPattern b ones o) b = ones ∧ patternsBelow b ones (nthPattern b ones o) = o := by
  induction b generalizing ones o with
  | zero =>
    cases ones with
    | zero =>
      obtain rfl : o = 0 := by simpa using h
      exact ⟨rfl, rfl⟩
    | succ ones => simp at h
  | succ b ih =>
    rw [nthPattern]
    split
    case isTrue hlow =>
      have hlt := nthPattern_lt b ones o
      rw [onesBelow_succ_of_lt hlt, patternsBelow_of_le hlt.le]
      exact ih hlow
    case isFalse hhigh =>
      cases ones with
      | zero =>
        rw [Nat.choose_zero_right] at h hhigh
        exact absurd h hhigh
      | succ ones =>
        rw [Nat.choose_succ_succ'] at h
        have hlt := nthPattern_lt b ones (o - b.choose (ones + 1))
        obtain ⟨hones, hbelow⟩ := ih (o := o - b.choose (ones + 1)) (ones := ones) (by omega)
        rw [Nat.add_sub_cancel, onesBelow_two_pow_add hlt, patternsBelow_succ_two_pow_add hlt.le, hones, hbelow,
          patternsBelow_two_pow]
        exact ⟨rfl, by omega⟩

/-- Every table of the default ROM is in ascending order (R102). -/
theorem defaultRom_table {cls : Nat} (h1 : 1 ≤ cls) (h16 : cls ≤ 16) :
    (defaultRom.classEntry cls).table = .ascending := by
  have hall : ∀ k < 16, (defaultRom.classes.getD k ⟨0, .listed []⟩).table = .ascending := by decide
  exact hall (cls - 1) (by omega)

theorem Rom.entries_of_ascending {r : Rom} {cls : Nat} (h : 1 ≤ cls) (ht : (r.classEntry cls).table = .ascending) :
    r.entries cls = Nat.choose 16 cls := by
  rw [Rom.entries, if_neg (by omega), ht]

theorem Rom.toNat_pattern_of_ascending {r : Rom} {cls : Nat} (h : 1 ≤ cls)
    (ht : (r.classEntry cls).table = .ascending) (o : Nat) :
    (r.pattern cls o).toNat = nthPattern 16 cls o := by
  rw [Rom.pattern, if_neg (by omega), ht]
  exact Nat.mod_eq_of_lt (nthPattern_lt 16 cls o)

/-- Settles O40, by induction on the width of the numbers: those with the top bit clear come first. -/
theorem ascendingTableHoldsTheNthPattern : Obligations.AscendingTableHoldsTheNthPattern := by
  unfold Obligations.AscendingTableHoldsTheNthPattern
  intro cls o h1 h16 ho
  have ht := defaultRom_table h1 h16
  rw [popcount, Rom.toNat_pattern_of_ascending h1 ht]
  exact ⟨Rom.entries_of_ascending h1 ht, nthPattern_spec ho⟩

/-- Settles O39: each group bit more counts where it is set. -/
theorem smallRankCountsThePrefix : Obligations.SmallRankCountsThePrefix := by
  unfold Obligations.SmallRankCountsThePrefix
  exact fun p l hl => ⟨smallRank_eq_countP p hl, rfl, smallRank_zero p, smallRank_sixteen p, by decide, by decide,
    by decide⟩

/-! ### Class 0 (R100) -/

/-- Settles O35: class 0 is no part of the ROM parameter. -/
theorem classZeroIsFixed : Obligations.ClassZeroIsFixed := fun _ => ⟨rfl, rfl, rfl, rfl⟩

end Sys2Proof.Machine
end

section
/-! SUPPORT and proofs about the three lookup commands of the rank-table ROM (R104 to R106). -/

namespace Sys2Proof.Machine

/-- A command that only returns a value completes with it and no read. -/
theorem exec_succeeds_of_pure {i : Instr} {s : State} {v : Word} (h : commandOf i s.ctx = .pure v) :
    exec i s = .next (s.succeeds v 0) :=
  exec_succeeds (by rw [h, Engine.pure_run, Nat.add_zero])

theorem romOffsetbitsCmd_of_ok {c : Ctx} (h : c.arg0U ≤ 16) :
    romOffsetbitsCmd c = .pure (zext64 (c.rom.offsetBits c.arg0U)) := if_neg (Nat.not_lt.mpr h)

theorem romOffsetbitsCmd_raise {c : Ctx} (h : 16 < c.arg0U) : romOffsetbitsCmd c = .raise .outOfRange := if_pos h

theorem romDecodeCmd_of_ok {c : Ctx} (h0 : c.arg0U ≤ 16) (h1 : c.arg1U < c.rom.entries c.arg0U) :
    romDecodeCmd c = .pure (zext64 (c.rom.pattern c.arg0U c.arg1U).toNat) := by
  rw [romDecodeCmd, if_neg (Nat.not_lt.mpr h0), if_neg (Nat.not_le.mpr h1)]

theorem romDecodeCmd_raise {c : Ctx} (h : 16 < c.arg0U ∨ c.rom.entries c.arg0U ≤ c.arg1U) :
    romDecodeCmd c = .raise .outOfRange := by
  unfold romDecodeCmd
  split
  case isTrue => rfl
  case isFalse hc => exact if_pos (h.resolve_left hc)

theorem romSmallrankCmd_of_ok {c : Ctx} (h0 : c.arg0U ≤ 0xFFFF) (h1 : c.arg1U ≤ 16) :
    romSmallrankCmd c = .pure (zext64 (smallRank (BitVec.ofNat 16 c.arg0U) c.arg1U)) := by
  rw [romSmallrankCmd, if_neg (Nat.not_lt.mpr h0), if_neg (Nat.not_lt.mpr h1)]

theorem romSmallrankCmd_raise {c : Ctx} (h : 0xFFFF < c.arg0U ∨ 16 < c.arg1U) :
    romSmallrankCmd c = .raise .outOfRange := by
  unfold romSmallrankCmd
  split
  case isTrue => rfl
  case isFalse hp => exact if_pos (h.resolve_left hp)

/-- Settles O36, by the class check. -/
theorem romOffsetbitsReturnsTheWidth : Obligations.RomOffsetbitsReturnsTheWidth := by
  unfold Obligations.RomOffsetbitsReturnsTheWidth
  exact ⟨rfl, fun s h => exec_succeeds_of_pure (romOffsetbitsCmd_of_ok h),
    fun s h => exec_failsWith_of_raise (romOffsetbitsCmd_raise h), offsetBits_zero, rfl, rfl⟩

theorem toNat_zext64_pattern_lt (p : Pattern) : (zext64 p.toNat).toNat < 2 ^ 16 := by
  rw [toNat_zext64 (p.isLt.trans (by decide))]
  exact p.isLt

/-- Settles O37, by the class and offset checks. -/
theorem romDecodeReturnsThePattern : Obligations.RomDecodeReturnsThePattern := by
  unfold Obligations.RomDecodeReturnsThePattern
  refine ⟨rfl, fun s h0 h1 => ⟨exec_succeeds_of_pure (romDecodeCmd_of_ok h0 h1), toNat_zext64_pattern_lt _⟩,
    fun s h => exec_failsWith_of_raise (romDecodeCmd_raise h), fun r => ?_, by decide⟩
  obtain ⟨-, hentries, hclear, hset⟩ := classZeroIsFixed r
  exact ⟨hclear, hset, hentries⟩

/-- Settles O38, by the pattern and length checks. -/
theorem romSmallrankReturnsThePrefixRank : Obligations.RomSmallrankReturnsThePrefixRank := by
  unfold Obligations.RomSmallrankReturnsThePrefixRank
  exact ⟨rfl, fun s h0 h1 => exec_succeeds_of_pure (romSmallrankCmd_of_ok h0 h1),
    fun s h => exec_failsWith_of_raise (romSmallrankCmd_raise h), fun p => ⟨smallRank_zero p, smallRank_sixteen p⟩,
    by decide, by decide⟩

end Sys2Proof.Machine
end

section
/-! SUPPORT and the proof about the errors a command raises and the causes of OutOfRange (R104 to R106, R121 to R123,
R140, R160, R162, R191, R221, R222). -/

namespace Sys2Proof.Machine

/-! ### Checks that raise OutOfRange -/

variable {α : Type} {c : Ctx} {st : Store} {k k' : Nat} {info : Word}

theorem Engine.Built.not_outOfRange {es : List ErrorKind} {m : Engine α} (h : m.Built es)
    (hes : ErrorKind.outOfRange ∉ es) : m st k ≠ .err .outOfRange info k' :=
  fun he => hes (h.raisesOnly st k _ _ _ he).1

/-- A check raises OutOfRange, or what follows it does. -/
theorem outOfRange_ite {p : Prop} [Decidable p] {m : Engine α}
    (h : (if p then .raise .outOfRange else m) st k = .err .outOfRange info k') :
    p ∨ m st k = .err .outOfRange info k' := by
  split at h
  case isTrue hp => exact .inl hp
  case isFalse => exact .inr h

/-- The long view's check raises OutOfRange, or what follows it does (R55). -/
theorem outOfRange_longViewCheck_bind {f : Nat → Engine α}
    (h : (longViewCheck c).bind f st k = .err .outOfRange info k') :
    c.longViewOk = false ∨ f c.longWords st k = .err .outOfRange info k' := by
  cases hv : c.longViewOk with
  | false => exact .inl rfl
  | true => exact .inr (by rwa [longViewCheck_of_ok hv] at h)

/-- OutOfRange after a last check is that check's, where what follows it only reads (R53). -/
theorem outOfRange_last_check {p : Prop} [Decidable p] {m : Engine α} (hm : m.Built [.storageIO])
    (h : (if p then .raise .outOfRange else m) st k = .err .outOfRange info k') : p :=
  (outOfRange_ite h).resolve_right (hm.not_outOfRange (by decide))

/-! ### The extractor and ARRAYRANK (R121 to R123, R140) -/

theorem getbitCmd_outOfRange (h : getbitCmd c st k = .err .outOfRange info k') :
    c.longViewOk = false ∨ c.longWords ≤ c.streamPos + c.arg0U / 64 :=
  (outOfRange_longViewCheck_bind h).imp_right <| outOfRange_last_check <|
    .bind (.memRead (by decide) _) fun _ => .pure _

theorem longField_built (c : Ctx) (base sb w : Nat) :
    ((field (longWord c) base sb w).bind fun v => .pure (zext64 v)).Built [.storageIO] :=
  .bind (field_built (fun _ => .memRead (by decide) _) base sb w) fun _ => .pure _

theorem getfieldCmd_outOfRange (h : getfieldCmd c st k = .err .outOfRange info k') :
    c.arg1U < 1 ∨ 64 < c.arg1U ∨ c.longViewOk = false ∨
      c.longWords ≤ c.streamPos + (c.arg0U + c.arg1U - 1) / 64 :=
  or_assoc.mp <| (outOfRange_ite h).imp badWidth_iff.mp fun h =>
    (outOfRange_longViewCheck_bind h).imp_right <| outOfRange_last_check (longField_built c _ _ _)

theorem getfieldxCmd_outOfRange (h : getfieldxCmd c st k = .err .outOfRange info k') :
    c.arg1U < 1 ∨ 64 < c.arg1U ∨ 2 ^ 64 ≤ c.arg0U * c.arg1U ∨ c.longViewOk = false ∨
      c.longWords ≤ (c.arg0U * c.arg1U + c.arg1U - 1) / 64 :=
  or_assoc.mp <| (outOfRange_ite h).imp badWidth_iff.mp fun h => (outOfRange_ite h).imp_right fun h =>
    (outOfRange_longViewCheck_bind h).imp_right <| outOfRange_last_check (longField_built c _ _ _)

theorem arrayrankCmd_outOfRange (h : arrayrankCmd c st k = .err .outOfRange info k') :
    c.longViewOk = false ∨ c.longWords < c.arg0U + c.arg1U :=
  (outOfRange_longViewCheck_bind h).imp_right <| outOfRange_last_check <|
    .bind (arrayRankLoop_built (by decide) c _ _ _ _ _) fun _ => .pure _

/-! ### The lookup commands (R104 to R106) -/

theorem romOffsetbitsCmd_outOfRange (h : romOffsetbitsCmd c st k = .err .outOfRange info k') : 16 < c.arg0U :=
  outOfRange_last_check (.pure _) h

theorem romDecodeCmd_outOfRange (h : romDecodeCmd c st k = .err .outOfRange info k') :
    16 < c.arg0U ∨ c.rom.entries c.arg0U ≤ c.arg1U :=
  (outOfRange_ite h).imp_right (outOfRange_last_check (.pure _))

theorem romSmallrankCmd_outOfRange (h : romSmallrankCmd c st k = .err .outOfRange info k') :
    0xFFFF < c.arg0U ∨ 16 < c.arg1U :=
  (outOfRange_ite h).imp_right (outOfRange_last_check (.pure _))

/-! ### The dictionary's header (R56, R57, R74) -/

/-- The header word that the dictionary command's first read delivers (R59). -/
def headerWord (c : Ctx) (st : Store) (k : Nat) : Word := st.word (c.dictAddr 0) k

theorem dictWord_ret {j : Nat} {w : Word} (h : dictWord c j st k = .ret w k') : w = st.word (c.dictAddr j) k := by
  unfold dictWord at h
  split at h
  · cases h
  · rw [memRead_run] at h
    split at h
    · cases h
    · cases h
      rfl

theorem dictViewCheck_ret {v : Unit} (h : dictViewCheck c st k = .ret v k') : k' = k := by
  unfold dictViewCheck at h
  split at h
  · cases h
    rfl
  · cases h

/-- The header that the checks accept is that of the word read, which is not negative (R74). -/
theorem dictHeader_ret {hd : Header} (h : dictHeader c st k = .ret hd k') :
    hd = headerOf (u64 (headerWord c st k)) ∧ 0 ≤ s64 (headerWord c st k) := by
  obtain ⟨_, _, hview, hrest⟩ := Engine.bind_eq_ret.mp h
  obtain ⟨w, _, hword, hchecks⟩ := Engine.bind_eq_ret.mp hrest
  have hw : w = headerWord c st k := by
    rw [dictWord_ret hword, dictViewCheck_ret hview, headerWord]
  rw [← hw]
  split at hchecks
  · cases hchecks
  next hsign =>
    split at hchecks
    · cases hchecks
    · cases hchecks
      exact ⟨rfl, not_lt.mp hsign⟩

/-- The header's checks raise OutOfRange for the view alone (R56, R74). -/
theorem dictHeader_outOfRange (h : dictHeader c st k = .err .outOfRange info k') : c.dictViewOk = false := by
  cases hv : c.dictViewOk with
  | false => rfl
  | true =>
    rw [dictHeader, dictViewCheck, if_pos hv, Engine.pure_bind] at h
    refine absurd h (Engine.Built.not_outOfRange (es := [.corruptDictionary, .storageIO]) ?_ (by decide))
    exact .bind (dictWord_built (by decide) (by decide) c 0) fun _ =>
      .ite (built_raise_corruptDictionary (by decide)) (.ite (built_raise_corruptDictionary (by decide)) (.pure _))

/-- OutOfRange of a dictionary command is the view's, or comes after a header that is accepted (R74). -/
theorem outOfRange_dictHeader_bind {f : Header → Engine α}
    (h : (dictHeader c).bind f st k = .err .outOfRange info k') :
    c.dictViewOk = false ∨ ∃ k₁, dictHeader c st k = .ret (headerOf (u64 (headerWord c st k))) k₁ ∧
      0 ≤ s64 (headerWord c st k) ∧ f (headerOf (u64 (headerWord c st k))) st k₁ = .err .outOfRange info k' := by
  rcases Engine.bind_eq_err.mp h with hview | ⟨hd, k₁, hret, hthen⟩
  · exact .inl (dictHeader_outOfRange hview)
  · obtain ⟨rfl, hs⟩ := dictHeader_ret hret
    exact .inr ⟨k₁, hret, hs, hthen⟩

/-! ### RANK1 and RANK0 (R160, R162) -/

theorem rank1Core_not_outOfRange (hd : Header) (i : Nat) : rank1Core c hd i st k ≠ .err .outOfRange info k' :=
  (rank1Core_built (es := [.corruptDictionary, .storageIO]) (by decide) (by decide) c hd i).not_outOfRange (by decide)

/-- What follows the sign check of RANK1 and of RANK0, which differ in what they make of the count, `g`. -/
theorem rank_outOfRange {g : Nat → Word} (hpos : 0 ≤ c.arg0S)
    (h : ((dictHeader c).bind fun hd => if hd.n ≤ c.arg0S.toNat then .raise .outOfRange
      else (rank1Core c hd c.arg0S.toNat).bind fun r => .pure (g r)) st k = .err .outOfRange info k') :
    c.dictViewOk = false ∨ s64 (headerWord c st k) ≤ c.arg0S := by
  refine (outOfRange_dictHeader_bind h).imp_right fun ⟨k₁, _, hs, hthen⟩ => ?_
  have hn : u64 (headerWord c st k) ≤ c.arg0S.toNat := (outOfRange_ite hthen).resolve_right fun hcore => by
    rcases Engine.bind_eq_err.mp hcore with hcore | ⟨_, _, _, hpure⟩
    · exact rank1Core_not_outOfRange _ _ hcore
    · cases hpure
  rw [s64_of_nonneg hs]
  omega

theorem rank1Cmd_outOfRange (h : rank1Cmd c st k = .err .outOfRange info k') :
    c.dictViewOk = false ∨ s64 (headerWord c st k) ≤ c.arg0S := by
  unfold rank1Cmd at h
  split at h
  case isTrue => cases h
  case isFalse hpos => exact rank_outOfRange (not_lt.mp hpos) h

theorem rank0Cmd_outOfRange (h : rank0Cmd c st k = .err .outOfRange info k') :
    c.dictViewOk = false ∨ s64 (headerWord c st k) ≤ c.arg0S := by
  unfold rank0Cmd at h
  split at h
  case isTrue => cases h
  case isFalse hpos => exact rank_outOfRange (not_lt.mp hpos) h

/-! ### SELECT1 and SELECT0 (R190, R191) -/

/-- Every value the computation ends with has the property `P`. -/
def Engine.Answers (m : Engine α) (P : α → Prop) : Prop := ∀ st k v k', m st k = .ret v k' → P v

theorem Engine.Answers.bind {β : Type} {P : α → Prop} {m : Engine β} {f : β → Engine α}
    (hf : ∀ b, (f b).Answers P) : (m.bind f).Answers P := fun _ _ v _ h => by
  obtain ⟨b, _, _, hthen⟩ := Engine.bind_eq_ret.mp h
  exact hf b _ _ v _ hthen

/-- `Rank1Core` answers at most `i + 1` (R161). -/
theorem rank1Core_answers (c : Ctx) (hd : Header) (i : Nat) : (rank1Core c hd i).Answers (· ≤ i + 1) := by
  refine .bind fun _ => .bind fun _ => .bind fun _ => .bind fun _ => .bind fun _ => .bind fun _ => .bind fun _ => ?_
  intro st k r k' h
  split at h
  case isTrue => cases h
  case isFalse hle =>
    cases h
    exact Nat.not_lt.mp hle

/-- A header that is accepted and not 0 makes the word before its own the last index (R191). -/
theorem s64_sub_one {w : Word} (h : 0 ≤ s64 w) (h0 : u64 w ≠ 0) : s64 (w - 1) = (u64 w - 1 : Nat) := by
  simp only [s64, u64, BitVec.toInt_eq_toNat_cond] at h h0 ⊢
  bv_omega

/-- The groups' codewords do not depend on ARG0 (R81, R161). -/
theorem scanGroups_withArg0 (s : State) (a : Word) (hd : Header) (g res pos : Nat) :
    scanGroups (s.withArg0 a).ctx hd g res pos = scanGroups s.ctx hd g res pos := by
  induction g generalizing res pos with
  | zero => rfl
  | succ g ih =>
    rw [scanGroups, scanGroups]
    exact congrArg _ (funext fun _ => ih _ _)

/-- `Rank1Core` takes its index as an argument and not from ARG0 (R161). -/
theorem rank1Core_withArg0 (s : State) (a : Word) (hd : Header) (i : Nat) :
    rank1Core (s.withArg0 a).ctx hd i = rank1Core s.ctx hd i := by
  simp only [rank1Core, scanGroups_withArg0]
  rfl

/-- RANK1 of `n - 1` succeeds with the count `P` that the range check of SELECT1 and SELECT0 takes (R191). -/
theorem exec_rank1_of_totalOnes {s : State} {k₁ k₂ p : Nat}
    (hheader : dictHeader s.ctx s.store s.reads = .ret (headerOf (u64 (headerWord s.ctx s.store s.reads))) k₁)
    (hs : 0 ≤ s64 (headerWord s.ctx s.store s.reads)) (h0 : u64 (headerWord s.ctx s.store s.reads) ≠ 0)
    (hp : totalOnes s.ctx (headerOf (u64 (headerWord s.ctx s.store s.reads))) s.store k₁ = .ret p k₂) :
    ∃ u, exec .rank1 (s.withArg0 (headerWord s.ctx s.store s.reads - 1)) = .next u ∧ u.errcode = none ∧
      u.result.toNat = p := by
  generalize headerWord s.ctx s.store s.reads = w at *
  have hcore : rank1Core s.ctx (headerOf (u64 w)) (u64 w - 1) s.store k₁ = .ret p k₂ := by
    rwa [totalOnes, if_neg (show ¬ (headerOf (u64 w)).n = 0 from h0)] at hp
  have hlt : p < 2 ^ 64 := by
    have hle := rank1Core_answers _ _ _ _ _ _ _ hcore
    have hw : u64 w < 2 ^ 64 := w.isLt
    omega
  have hlast : ¬ (headerOf (u64 w)).n ≤ u64 w - 1 := show ¬ u64 w ≤ u64 w - 1 by omega
  have harg : (s.withArg0 (w - 1)).ctx.arg0S = (u64 w - 1 : Nat) := s64_sub_one hs h0
  have hrun : rank1Cmd (s.withArg0 (w - 1)).ctx s.store s.reads = .ret (zext64 p) k₂ := by
    rw [rank1Cmd_of_nonneg (by omega), harg, Int.toNat_natCast]
    refine (Engine.bind_ret hheader).trans ?_
    rw [if_neg hlast, rank1Core_withArg0]
    exact Engine.bind_ret hcore
  exact ⟨_, exec_next.mpr (runCommand_ret hrun), rfl, toNat_zext64 hlt⟩

/-- OutOfRange of SELECT1 and SELECT0: a negative `k`, the view, an empty bit-vector, or `k` at or beyond the count that
RANK1 of `n - 1` gives (R190, R191). -/
theorem selectCore_outOfRange {s : State} {one : Bool}
    (h : selectCore one s.ctx s.store s.reads = .err .outOfRange info k') :
    s.ctx.arg0S < 0 ∨ s.ctx.dictViewOk = false ∨ u64 (headerWord s.ctx s.store s.reads) = 0 ∨
      ∃ u, exec .rank1 (s.withArg0 (headerWord s.ctx s.store s.reads - 1)) = .next u ∧ u.errcode = none ∧
        countOf one (u64 (headerWord s.ctx s.store s.reads)) u.result.toNat ≤ s.ctx.arg0S := by
  refine (outOfRange_ite h).imp_right fun h => (outOfRange_dictHeader_bind h).imp_right ?_
  rintro ⟨k₁, hheader, hs, hthen⟩
  refine or_iff_not_imp_left.mpr fun h0 => ?_
  rcases Engine.bind_eq_err.mp hthen with htotal | ⟨p, k₂, hp, hthen⟩
  · have hbuilt := totalOnes_built (es := [.corruptDictionary, .storageIO]) (by decide) (by decide) s.ctx
      (headerOf (u64 (headerWord s.ctx s.store s.reads)))
    exact absurd htotal (hbuilt.not_outOfRange (by decide))
  obtain ⟨u, hu, hok, rfl⟩ := exec_rank1_of_totalOnes hheader hs h0 hp
  refine ⟨u, hu, hok, (outOfRange_ite hthen).resolve_right fun hstages => ?_⟩
  have hbuilt := selectStages_built (es := [.corruptDictionary, .storageIO]) (by decide) (by decide) s.ctx
    (headerOf (u64 (headerWord s.ctx s.store s.reads))) one (s.ctx.arg0S + 1)
  exact (hbuilt.bind fun r => .pure (zext64 r)).not_outOfRange (by decide) hstages

/-- Settles O14: a command raises errors of its rule alone, and OutOfRange only by one of its checks. -/
theorem commandsRaiseOnlyTheirErrors : Obligations.CommandsRaiseOnlyTheirErrors := by
  unfold Obligations.CommandsRaiseOnlyTheirErrors
  intro i s t e h he
  rw [exec_next] at h
  rcases runCommand_cases s (commandOf i) with ⟨v, k, _, hc⟩ | ⟨e', info, k, hr, hc⟩
  · rw [hc] at h
    subst h
    cases he
  · rw [hc] at h
    subst h
    obtain rfl : e' = e := Option.some.inj he
    refine ⟨((commandOf_built i s.ctx).raisesOnly _ _ _ _ _ hr).1, ?_⟩
    rintro rfl
    cases i with
    | getbit => exact getbitCmd_outOfRange hr
    | getfield => exact getfieldCmd_outOfRange hr
    | getfieldx => exact getfieldxCmd_outOfRange hr
    | arrayrank => exact arrayrankCmd_outOfRange hr
    | rank1 => exact rank1Cmd_outOfRange hr
    | rank0 => exact rank0Cmd_outOfRange hr
    | select1 => exact selectCore_outOfRange hr
    | select0 => exact selectCore_outOfRange hr
    | romOffsetbits => exact romOffsetbitsCmd_outOfRange hr
    | romDecode => exact romDecodeCmd_outOfRange hr
    | romSmallrank => exact romSmallrankCmd_outOfRange hr

end Sys2Proof.Machine
end

section
/-! SUPPORT and the proofs about what the bit-field extractor's commands answer (R120 to R125, R73). -/

namespace Sys2Proof.Machine

theorem badWidth_eq_false {w : Nat} (h1 : 1 ≤ w) (hw : w ≤ 64) : badWidth w = false := by
  rw [Bool.eq_false_iff, Ne, badWidth_iff]
  omega

/-! ### The extractor's values (R120, R124) -/

/-- Bit `j` of the field inside one word: the shift right takes it from bit `64 - w + j`, the shift left before it from
`s` bits below. -/
theorem testBit_fieldOne (a : Word) (s w j : Nat) :
    (fieldOne a s w).testBit j =
      (decide (64 - w + j < 64) && !decide (64 - w + j < s) && a.getLsbD (64 - w + j - s)) := by
  rw [fieldOne, BitVec.testBit_toNat, BitVec.getLsbD_ushiftRight, BitVec.getLsbD_shiftLeft]

/-- Bit `j` of the field across two words: bit `128 - s - w + j` of their concatenation. -/
theorem testBit_fieldTwo (a b : Word) (s w j : Nat) :
    (fieldTwo a b s w).testBit j =
      (decide (j < w) && if 128 - s - w + j < 64 then b.getLsbD (128 - s - w + j)
        else a.getLsbD (128 - s - w + j - 64)) := by
  rw [fieldTwo, Nat.testBit_mod_two_pow, BitVec.testBit_toNat, BitVec.getLsbD_ushiftRight, BitVec.getLsbD_append]

/-- The field inside one word fits its width (R120). -/
theorem fieldOne_lt (a : Word) (s : Nat) {w : Nat} (hw : w ≤ 64) : fieldOne a s w < 2 ^ w := by
  rw [fieldOne, BitVec.toNat_ushiftRight, Nat.shiftRight_eq_div_pow]
  refine Nat.div_lt_of_lt_mul ?_
  rw [← Nat.pow_add, Nat.sub_add_cancel hw]
  exact BitVec.isLt _

/-- The field across two words fits its width (R120). -/
theorem fieldTwo_lt (a b : Word) (s w : Nat) : fieldTwo a b s w < 2 ^ w := Nat.mod_lt _ (Nat.two_pow_pos w)

/-- A field of one bit is the bit (R125). -/
theorem fieldOne_one (a : Word) {s : Nat} (hs : s < 64) : fieldOne a s 1 = (a.getLsbD (63 - s)).toNat := by
  refine Nat.eq_of_testBit_eq fun j => ?_
  rw [testBit_fieldOne, Nat.testBit_bool_toNat]
  cases j with
  | zero => simp [Nat.not_lt.mpr (Nat.le_of_lt_succ hs)]
  | succ j =>
    have hout : ¬ 63 + (j + 1) < 64 := by omega
    simp [hout]

/-- The two-word field is `hi | lo` (R124): the low `s + w - 64` bits come from the second word, the others from the
first. -/
theorem fieldTwo_eq_or (a b : Word) {s w : Nat} (hs : s < 64) (hw : w ≤ 64) (h : 64 < s + w) :
    fieldTwo a b s w = fieldOne a s w ||| (b >>> (128 - s - w)).toNat := by
  refine Nat.eq_of_testBit_eq fun j => ?_
  rw [Nat.testBit_or, testBit_fieldOne, testBit_fieldTwo, BitVec.testBit_toNat, BitVec.getLsbD_ushiftRight]
  by_cases hlo : j < s + w - 64
  · have hj : j < w := by omega
    have hb : 128 - s - w + j < 64 := by omega
    have ha : 64 - w + j < s := by omega
    simp [hj, hb, ha]
  · have hb : ¬ 128 - s - w + j < 64 := by omega
    have ha : ¬ 64 - w + j < s := by omega
    have hj : 64 - w + j < 64 ↔ j < w := by omega
    have hbit : 128 - s - w + j - 64 = 64 - w + j - s := by omega
    simp [hb, ha, hj, hbit, BitVec.getLsbD_of_ge b _ (Nat.not_lt.mp hb)]

/-- Settles O45: the two-word value bit by bit, the widths by the shift to the right and by the final `mod`. -/
theorem fieldIsHighOrLow : Obligations.FieldIsHighOrLow := by
  unfold Obligations.FieldIsHighOrLow
  refine fun a b s w hs h1 hw =>
    ⟨fun h => ⟨?_, by omega, by omega⟩, by omega, fieldOne_lt a s hw, fieldTwo_lt a b s w, fun i => by omega⟩
  rw [BitVec.toNat_or]
  exact fieldTwo_eq_or a b (by omega) hw h

/-! ### Width 1 (R125) -/

/-- GETFIELD of width 1 is the same computation as GETBIT: the span check is the same test, the span is one word, and
its field is the bit. -/
theorem getfieldCmd_of_width_one {c : Ctx} (h : c.arg1U = 1) : getfieldCmd c = getbitCmd c := by
  have hs : c.arg0U % 64 < 64 := Nat.mod_lt _ (by decide)
  have hone : c.arg0U % 64 + 1 ≤ 64 := hs
  have hwidth : ¬ badWidth 1 = true := by decide
  rw [getfieldCmd, h, if_neg hwidth, Nat.add_sub_cancel, getbitCmd]
  simp only [field, Engine.bind_assoc, if_pos hone, Engine.pure_bind, fieldOne_one _ hs]

/-- Settles O44: the two commands compute the same. -/
theorem getfieldWidthOneAgreesWithGetbit : Obligations.GetfieldWidthOneAgreesWithGetbit := by
  unfold Obligations.GetfieldWidthOneAgreesWithGetbit
  intro s h
  simp only [exec_eq, State.runCommand, commandOf, getfieldCmd_of_width_one h]

/-! ### Reads of a quiet long view (R55, R73) -/

/-- Past its checks, GETFIELD is the field relative to STREAM_POS (R122). -/
theorem getfieldCmd_of_ok {c : Ctx} (hw : badWidth c.arg1U = false) (hv : c.longViewOk = true)
    (hspan : c.streamPos + (c.arg0U + c.arg1U - 1) / 64 < c.longWords) :
    getfieldCmd c = (field (longWord c) c.streamPos c.arg0U c.arg1U).bind fun v => .pure (zext64 v) := by
  rw [getfieldCmd, if_neg (by simp [hw]), longViewCheck_of_ok hv, Engine.pure_bind, if_neg (Nat.not_le.mpr hspan)]

/-- Past its checks, GETFIELDX is the field at the product, from word 0 (R123). -/
theorem getfieldxCmd_of_ok {c : Ctx} (hw : badWidth c.arg1U = false) (hp : c.arg0U * c.arg1U < 2 ^ 64)
    (hv : c.longViewOk = true) (hspan : (c.arg0U * c.arg1U + c.arg1U - 1) / 64 < c.longWords) :
    getfieldxCmd c = (field (longWord c) 0 (c.arg0U * c.arg1U) c.arg1U).bind fun v => .pure (zext64 v) := by
  rw [getfieldxCmd, if_neg (by simp [hw]), if_neg (Nat.not_le.mpr hp), longViewCheck_of_ok hv, Engine.pure_bind,
    if_neg (Nat.not_le.mpr hspan)]

/-- A field counted from word `base` is the one `64 * base` bits further on, counted from word 0 (R120). -/
theorem field_base (read : Nat → Engine Word) (base sb w : Nat) :
    field read base sb w = field read 0 (64 * base + sb) w := by
  simp only [field, Nat.zero_add, Nat.mul_add_mod, Nat.mul_add_div (show 64 > 0 by decide)]

section QuietView

variable {c : Ctx} {st : Store} (hq : st.quiet c.winStart c.winLen)

include hq

/-- A word inside a quiet long view answers (R55). -/
theorem longWord_of_quiet {j : Nat} (hj : j < c.longWords) (k : Nat) :
    longWord c j st k = .ret (st.stableWord (c.winStart + 8 * j)) (k + 1) := by
  have hin : 8 * j + 8 ≤ c.winLen := by
    rw [Ctx.longWords] at hj
    omega
  exact memRead_of_quiet hq (Nat.le_add_right _ _) (by omega) k

/-- A field inside a quiet long view is the number its stream bits spell (R120, R73). -/
theorem longField_run {base sb w : Nat} (h1 : 1 ≤ w) (hw : w ≤ 64) (hspan : base + (sb + w - 1) / 64 < c.longWords)
    (k : Nat) : field (longWord c) base sb w st k =
      .ret (bitsValue (st.streamBit c.winStart) (64 * base + sb) w) (k + if sb % 64 + w ≤ 64 then 1 else 2) := by
  have hwords : ∀ x ≤ (64 * base + sb + w - 1) / 64, ∀ k,
      longWord c (0 + x) st k = .ret (st.stableWord (c.winStart + 8 * x)) (k + 1) := fun x hx k => by
    rw [Nat.zero_add, longWord_of_quiet hq (by omega)]
  rw [field_base, field_run h1 hw hwords, Nat.mul_add_mod]

end QuietView

/-- Settles O41: the one word read, and the bit of it (R121). -/
theorem getbitReturnsTheStreamBit : Obligations.GetbitReturnsTheStreamBit := by
  unfold Obligations.GetbitReturnsTheStreamBit
  intro s hv hspan hq
  refine exec_succeeds ?_
  rw [commandOf, getbitCmd_of_ok hv hspan, Engine.bind_ret (longWord_of_quiet hq hspan s.reads), Engine.pure_run,
    getLsbD_stableWord _ _ _ (by omega)]
  congr 4
  omega

/-- Settles O42: past the checks, the field of the quiet view. -/
theorem getfieldReturnsTheStreamField : Obligations.GetfieldReturnsTheStreamField := by
  unfold Obligations.GetfieldReturnsTheStreamField
  intro s h1 hw hv hspan hq
  refine exec_succeeds ?_
  rw [commandOf, getfieldCmd_of_ok (badWidth_eq_false h1 hw) hv hspan, Engine.bind_ret (longField_run hq h1 hw hspan _),
    Engine.pure_run]

/-- Settles O43: past the checks, the field of the quiet view at the product, with base 0. -/
theorem getfieldxReturnsThePackedElement : Obligations.GetfieldxReturnsThePackedElement := by
  unfold Obligations.GetfieldxReturnsThePackedElement
  intro s h1 hw hp hv hspan hq
  have hfield := longField_run hq h1 hw (base := 0) (by rwa [Nat.zero_add]) s.reads
  rw [Nat.mul_zero, Nat.zero_add] at hfield
  refine exec_succeeds ?_
  rw [commandOf, getfieldxCmd_of_ok (badWidth_eq_false h1 hw) hp hv hspan, Engine.bind_ret hfield, Engine.pure_run]

end Sys2Proof.Machine
end

section
/-! SUPPORT and the proofs about the binary-search comparator (R140 to R142, R262). -/

namespace Sys2Proof.Machine

/-! ### The count of a property that holds below some index and nowhere from it on -/

/-- On `[0, cnt)`, a property that an index hands down to the smaller ones holds exactly below its count. -/
theorem lt_countP_range_iff {p : Nat → Bool} {cnt : Nat} (hdown : ∀ m m', m ≤ m' → m' < cnt → p m' → p m) {j : Nat}
    (hj : j < cnt) : p j = true ↔ j < (List.range cnt).countP p := by
  constructor
  · intro hp
    have hall : (List.range (j + 1)).countP p = (List.range (j + 1)).length :=
      List.countP_eq_length.mpr fun m hm => hdown m j (by simpa [Nat.lt_succ_iff] using hm) hj hp
    have hle := (List.range_sublist.mpr (Nat.succ_le_of_lt hj)).countP_le (p := p)
    rw [hall, List.length_range] at hle
    exact hle
  · intro hlt
    by_contra hp
    have hnone : ((List.range (cnt - j)).map (j + ·)).countP p = 0 :=
      List.countP_eq_zero.mpr fun m hm hpm => by
        obtain ⟨x, hx, rfl⟩ := List.mem_map.mp hm
        rw [List.mem_range] at hx
        exact hp (hdown j (j + x) (Nat.le_add_right j x) (by omega) hpm)
    have hle := List.countP_le_length (p := p) (l := List.range j)
    rw [← Nat.add_sub_cancel' hj.le, List.range_add, List.countP_append, hnone] at hlt
    rw [List.length_range] at hle
    omega

theorem countP_range_le (p : Nat → Bool) (cnt : Nat) : (List.range cnt).countP p ≤ cnt :=
  List.countP_le_length.trans_eq List.length_range

/-! ### The block-index search (R141, R142 (b)) -/

/-- Where the values below `val` are those of the first `r` indices, the search's loop ends at `r`: `r` stays between the
ends of its range. -/
theorem bsearchLoop_of_split {g : Nat → Int} {val : Int} {r bound lo hi : Nat} (hlo : lo ≤ r) (hhi : r ≤ hi)
    (hbound : hi ≤ lo + bound) (hsplit : ∀ m < hi, g m < val ↔ m < r) :
    bsearchLoop (fun m => .pure (g m)) val bound lo hi = .pure r := by
  induction bound generalizing lo hi with
  | zero =>
    obtain rfl : r = hi := by omega
    rfl
  | succ bound ih =>
    rw [bsearchLoop]
    by_cases hlt : lo < hi
    · have hmid := hsplit ((lo + hi - 1) / 2) (by omega)
      rw [if_pos hlt, Engine.pure_bind]
      by_cases hval : g ((lo + hi - 1) / 2) < val
      · rw [if_pos hval]
        exact ih (hmid.mp hval) hhi (by omega) hsplit
      · rw [if_neg hval]
        exact ih hlo (Nat.not_lt.mp (hval ∘ hmid.mpr)) (by omega) fun m hm => hsplit m (by omega)
    · obtain rfl : r = hi := by omega
      rw [if_neg hlt]

/-- Settles O49: the values below `val` stand first, so the loop ends at their count. -/
theorem blockSearchFindsTheLastBelow : Obligations.BlockSearchFindsTheLastBelow := by
  unfold Obligations.BlockSearchFindsTheLastBelow
  intro cnt f val st k _ hmono
  have hdown : ∀ m m', m ≤ m' → m' < cnt → decide (f m' < val) → decide (f m < val) := fun m m' hm hm' hp =>
    decide_eq_true ((hmono m m' hm hm').trans_lt (of_decide_eq_true hp))
  have hsplit : ∀ m < cnt, f m < val ↔ m < (List.range cnt).countP fun m => decide (f m < val) := fun m hm => by
    rw [← lt_countP_range_iff hdown hm, decide_eq_true_eq]
  rw [bsearchGT, bsearchLoop_of_split (Nat.zero_le _) (countP_range_le _ cnt) (by omega) hsplit, Engine.pure_bind,
    Engine.pure_run]

/-! ### ARRAYRANK's reads (R262) -/

/-- Each probe of ARRAYRANK's search leaves less than half of the range: fewer than `2^b` elements take at most `b`
reads. -/
theorem arrayRankLoop_readsAtMost (c : Ctx) (start : Nat) (key : Int) {bound b lo hi : Nat} (h : hi - lo < 2 ^ b) :
    (arrayRankLoop c start key bound lo hi).ReadsAtMost b := by
  induction bound generalizing b lo hi with
  | zero => exact (Engine.ReadsAtMost.pure hi).mono (Nat.zero_le b)
  | succ bound ih =>
    rw [arrayRankLoop]
    split_ifs with hlt
    · cases b with
      | zero => omega
      | succ b =>
        rw [pow_succ] at h
        rw [Nat.add_comm b]
        refine (memRead_readsAtMost _).bind fun v => ?_
        split_ifs
        · exact (Engine.ReadsAtMost.pure _).mono (Nat.zero_le b)
        · exact ih (by omega)
        · exact ih (by omega)
    · exact (Engine.ReadsAtMost.pure hi).mono (Nat.zero_le b)

/-- A bound on a computation's reads bounds the reads it ends after with a value. -/
theorem Engine.EndsAfter.le_of_readsAtMost {α : Type} {m : Engine α} {st : Store} {d b : Nat} {v : α}
    (h : m.EndsAfter st d (.ok v)) (hb : m.ReadsAtMost b) : d ≤ b := by
  have hreads := (hb st 0).2
  rw [h 0] at hreads
  exact Nat.le_of_add_le_add_left hreads

/-! ### ARRAYRANK's result (R140, R142) -/

/-- The first `hi` elements of `a` that are at most `key` are the first `r`, and only the last of these can be `key`. -/
structure KeySplit (a : Nat → Int) (key : Int) (hi r : Nat) : Prop where
  le_hi : r ≤ hi
  le_iff : ∀ m < hi, a m ≤ key ↔ m < r
  last : ∀ m < hi, a m = key → m + 1 = r

/-- Before an element above the key the split is the same. -/
theorem KeySplit.before {a : Nat → Int} {key : Int} {hi r mid : Nat} (h : KeySplit a key hi r) (hmid : mid < hi)
    (habove : ¬a mid ≤ key) : KeySplit a key mid r where
  le_hi := Nat.not_lt.mp fun hr => habove ((h.le_iff mid hmid).mpr hr)
  le_iff m hm := h.le_iff m (hm.trans hmid)
  last m hm := h.last m (hm.trans hmid)

/-- Strictly ascending elements split at the number of those at most the key. -/
theorem keySplit_of_ascending {a : Nat → Int} {size : Nat} (hasc : ∀ j k, j < k → k < size → a j < a k) (key : Int) :
    KeySplit a key size ((List.range size).countP fun j => decide (a j ≤ key)) := by
  have hdown : ∀ m m', m ≤ m' → m' < size → decide (a m' ≤ key) → decide (a m ≤ key) := fun m m' hm hm' hp => by
    rcases hm.eq_or_lt with rfl | hlt
    · exact hp
    · exact decide_eq_true ((hasc m m' hlt hm').le.trans (of_decide_eq_true hp))
  have hiff : ∀ m < size, a m ≤ key ↔ m < (List.range size).countP fun j => decide (a j ≤ key) := fun m hm => by
    rw [← lt_countP_range_iff hdown hm, decide_eq_true_eq]
  have hle := countP_range_le (fun j => decide (a j ≤ key)) size
  refine ⟨hle, hiff, fun m hm heq => Nat.le_antisymm ((hiff m hm).mp heq.le) (Nat.not_lt.mp fun hnext => ?_)⟩
  have hlt := hasc m (m + 1) (Nat.lt_succ_self m) (by omega)
  have hkey := (hiff (m + 1) (by omega)).mpr hnext
  omega

/-- On elements that all answer, ARRAYRANK's search ends with a number at most `hi`; where the elements split, with the
index they split at, which stays between the ends of the range. -/
theorem arrayRankLoop_ends {c : Ctx} {st : Store} {start : Nat} {a : Nat → Word} (key : Int) {bound lo hi : Nat}
    (ha : ∀ m < hi, (longWord c (start + m)).Ends st (.ok (a m))) :
    ∃ v ≤ hi, (arrayRankLoop c start key bound lo hi).Ends st (.ok v) ∧
      ∀ r, lo ≤ r → hi ≤ lo + bound → KeySplit (fun m => s64 (a m)) key hi r → v = r := by
  induction bound generalizing lo hi with
  | zero => exact ⟨hi, le_refl hi, Engine.pure_ends hi st, fun r hlo hb hs => Nat.le_antisymm (hb.trans hlo) hs.le_hi⟩
  | succ bound ih =>
    rw [arrayRankLoop]
    by_cases hlt : lo < hi
    · have hmid : (lo + hi - 1) / 2 < hi := by omega
      rw [if_pos hlt]
      by_cases heq : s64 (a ((lo + hi - 1) / 2)) = key
      · refine ⟨(lo + hi - 1) / 2 + 1, hmid, (ha _ hmid).bind_ok ?_, fun r _ _ hs => hs.last _ hmid heq⟩
        rw [if_pos heq]
        exact Engine.pure_ends _ st
      by_cases hbelow : s64 (a ((lo + hi - 1) / 2)) < key
      · obtain ⟨v, hv, hends, hsplit⟩ := ih (lo := (lo + hi - 1) / 2 + 1) ha
        refine ⟨v, hv, (ha _ hmid).bind_ok ?_, fun r _ _ hs =>
          hsplit r ((hs.le_iff _ hmid).mp hbelow.le) (by omega) hs⟩
        rwa [if_neg heq, if_pos hbelow]
      · obtain ⟨v, hv, hends, hsplit⟩ := ih (lo := lo) (hi := (lo + hi - 1) / 2) fun m hm => ha m (by omega)
        refine ⟨v, by omega, (ha _ hmid).bind_ok ?_, fun r hlo _ hs =>
          hsplit r hlo (by omega) (hs.before hmid fun hle => hbelow (lt_of_le_of_ne hle heq))⟩
        rwa [if_neg heq, if_neg hbelow]
    · rw [if_neg hlt]
      exact ⟨hi, le_refl hi, Engine.pure_ends hi st, fun r hlo _ hs =>
        Nat.le_antisymm ((Nat.not_lt.mp hlt).trans hlo) hs.le_hi⟩

/-- Past its checks, ARRAYRANK is its search on the whole range (R140). -/
theorem arrayrankCmd_of_ok {c : Ctx} (hv : c.longViewOk = true) (hspan : c.arg0U + c.arg1U ≤ c.longWords) :
    arrayrankCmd c = (arrayRankLoop c c.arg0U c.arg2S c.arg1U 0 c.arg1U).bind fun r => .pure (zext64 r) := by
  rw [arrayrankCmd, longViewCheck_of_ok hv, Engine.pure_bind, if_neg (Nat.not_lt.mpr hspan)]

/-- On a quiet window ARRAYRANK completes after at most 64 reads with a number at most `size`; where the elements split,
with the index they split at. -/
theorem exec_arrayrank_of_quiet {s : State} (hv : s.ctx.longViewOk = true)
    (hspan : s.ctx.arg0U + s.ctx.arg1U ≤ s.ctx.longWords) (hq : s.store.quiet s.ctx.winStart s.ctx.winLen) :
    ∃ v ≤ s.ctx.arg1U, ∃ n ≤ 64, exec .arrayrank s = .next (s.succeeds (zext64 v) n) ∧
      ∀ r, KeySplit (fun j => s64 (s.store.stableWord (s.ctx.longAddr (s.ctx.arg0U + j)))) s.ctx.arg2S s.ctx.arg1U r →
        v = r := by
  have helems : ∀ m < s.ctx.arg1U, (longWord s.ctx (s.ctx.arg0U + m)).Ends s.store
      (.ok (s.store.stableWord (s.ctx.longAddr (s.ctx.arg0U + m)))) := fun m hm =>
    ⟨1, longWord_of_quiet hq (by omega)⟩
  have hsize : s.ctx.arg1U - 0 < 2 ^ 64 := s.snap.arg1.isLt
  obtain ⟨v, hle, ⟨n, hends⟩, hsplit⟩ := arrayRankLoop_ends s.ctx.arg2S (bound := s.ctx.arg1U) (lo := 0) helems
  refine ⟨v, hle, n, hends.le_of_readsAtMost (arrayRankLoop_readsAtMost _ _ _ hsize), exec_succeeds_of_endsAfter ?_,
    fun r hr => hsplit r (Nat.zero_le r) (Nat.le_add_left _ 0) hr⟩
  rw [commandOf, arrayrankCmd_of_ok hv hspan]
  exact hends.bind_pure zext64

/-- Settles O47: ascending elements split at their count. -/
theorem arrayrankCountsSortedKeys : Obligations.ArrayrankCountsSortedKeys := by
  unfold Obligations.ArrayrankCountsSortedKeys
  intro s hv hspan hq hasc
  obtain ⟨v, -, n, hn, hexec, hsplit⟩ := exec_arrayrank_of_quiet hv hspan hq
  rw [hsplit _ (keySplit_of_ascending hasc _)] at hexec
  exact ⟨n, hn, hexec⟩

/-- Settles O48: the search on a quiet window, sorted or not. -/
theorem arrayrankCompletesOnAnyData : Obligations.ArrayrankCompletesOnAnyData := by
  unfold Obligations.ArrayrankCompletesOnAnyData
  intro s hv hspan hq
  obtain ⟨v, hle, n, -, hexec, -⟩ := exec_arrayrank_of_quiet hv hspan hq
  exact ⟨v, n, hle, hexec⟩

end Sys2Proof.Machine
end

section
/-! SUPPORT and the proofs about RANK1 and RANK0 on any operand and any dictionary words, and about negative operands of
the four dictionary commands (R160 to R162, R191). -/

namespace Sys2Proof.Machine

/-! ### Negative operands (R160, R162, R191) -/

/-- Settles O50: the sign check comes before every other. -/
theorem negativeQueriesReadNothing : Obligations.NegativeQueriesReadNothing := by
  unfold Obligations.NegativeQueriesReadNothing
  exact fun s h => ⟨exec_succeeds_of_pure (if_pos h), exec_succeeds_of_pure (if_pos h),
    exec_failsWith_of_raise (if_pos h), exec_failsWith_of_raise (if_pos h)⟩

/-! ### The count that RANK1 and RANK0 share (R160, R162) -/

/-- What RANK1 and RANK0 of a non-negative index compute alike, before each makes its result of it (R160, R162). -/
def rankCount (c : Ctx) : Engine Nat :=
  (dictHeader c).bind fun h =>
    if h.n ≤ c.arg0S.toNat then .raise .outOfRange else rank1Core c h c.arg0S.toNat

theorem rankCount_bind_pure (c : Ctx) (g : Nat → Word) :
    (rankCount c).bind (fun r => .pure (g r)) = (dictHeader c).bind fun h =>
      if h.n ≤ c.arg0S.toNat then .raise .outOfRange
      else (rank1Core c h c.arg0S.toNat).bind fun r => .pure (g r) := by
  rw [rankCount, Engine.bind_assoc]
  refine congrArg _ (funext fun h => ?_)
  split <;> rfl

theorem rank1Cmd_eq_rankCount {c : Ctx} (h : 0 ≤ c.arg0S) :
    rank1Cmd c = (rankCount c).bind fun r => .pure (zext64 r) :=
  (rank1Cmd_of_nonneg h).trans (rankCount_bind_pure c _).symm

theorem rank0Cmd_eq_rankCount {c : Ctx} (h : 0 ≤ c.arg0S) :
    rank0Cmd c = (rankCount c).bind fun r => .pure (zext64 (c.arg0S.toNat + 1 - r)) :=
  (rank0Cmd_of_nonneg h).trans (rankCount_bind_pure c fun r => zext64 (c.arg0S.toNat + 1 - r)).symm

/-- The check at the end of `Rank1Core` bounds the count (R161). -/
theorem rankCount_answers (c : Ctx) : (rankCount c).Answers (· ≤ c.arg0S.toNat + 1) := by
  refine .bind fun h => ?_
  split
  case isTrue => nofun
  case isFalse => exact rank1Core_answers c h _

/-- An index is below 2^63, so `i + 1` fits in RESULT (R10). -/
theorem arg0S_toNat_lt (c : Ctx) : c.arg0S.toNat < 2 ^ 63 := by
  have hlt := BitVec.toInt_lt (x := c.snap.arg0)
  simp only [Ctx.arg0S, s64]
  omega

/-- RANK1 and RANK0 of a non-negative index end alike: in one error, or in a count and its complement (R160, R162). -/
theorem runCommand_rank_cases {s : State} (h : 0 ≤ s.ctx.arg0S) :
    (∃ r ≤ s.ctx.arg0S.toNat + 1, ∃ k, s.runCommand rank1Cmd = { s.completeOk (zext64 r) with reads := k } ∧
      s.runCommand rank0Cmd = { s.completeOk (zext64 (s.ctx.arg0S.toNat + 1 - r)) with reads := k }) ∨
    ∃ e info k, s.runCommand rank1Cmd = { s.completeError e info with reads := k } ∧
      s.runCommand rank0Cmd = { s.completeError e info with reads := k } := by
  cases hr : rankCount s.ctx s.store s.reads with
  | ret r k =>
    exact .inl ⟨r, rankCount_answers _ _ _ _ _ hr, k,
      runCommand_ret (by rw [rank1Cmd_eq_rankCount h, Engine.bind_ret hr, Engine.pure_run]),
      runCommand_ret (by rw [rank0Cmd_eq_rankCount h, Engine.bind_ret hr, Engine.pure_run])⟩
  | err e info k =>
    exact .inr ⟨e, info, k, runCommand_err (by rw [rank1Cmd_eq_rankCount h, Engine.bind_err hr]),
      runCommand_err (by rw [rank0Cmd_eq_rankCount h, Engine.bind_err hr])⟩

/-- Settles O52: a negative operand ends both in 0, any other in one error or in a count and its complement. -/
theorem rank0ComplementsRank1 : Obligations.Rank0ComplementsRank1 := by
  unfold Obligations.Rank0ComplementsRank1
  intro s t₁ t₀ h₁ h₀
  rcases lt_or_ge s.ctx.arg0S 0 with hneg | hpos
  · obtain ⟨hrank1, hrank0, -⟩ := negativeQueriesReadNothing s hneg
    cases h₁.symm.trans hrank1
    cases h₀.symm.trans hrank0
    exact ⟨rfl, rfl, rfl, fun _ h => absurd h (not_le.mpr hneg)⟩
  · rw [exec_next] at h₁ h₀
    subst h₁ h₀
    rcases runCommand_rank_cases hpos with ⟨r, hle, k, hrank1, hrank0⟩ | ⟨e, info, k, hrank1, hrank0⟩
    · have hlt := arg0S_toNat_lt s.ctx
      rw [commandOf, commandOf, hrank1, hrank0]
      refine ⟨rfl, rfl, rfl, fun _ _ => ?_⟩
      show (zext64 (s.ctx.arg0S.toNat + 1 - r)).toNat + (zext64 r).toNat = _
      rw [toNat_zext64 (by omega), toNat_zext64 (by omega), Nat.sub_add_cancel hle]
    · rw [commandOf, commandOf, hrank1, hrank0]
      exact ⟨rfl, rfl, rfl, nofun⟩

/-- Settles O58: RANK1's own last check. -/
theorem rank1NeverExceedsItsPrefix : Obligations.Rank1NeverExceedsItsPrefix := by
  unfold Obligations.Rank1NeverExceedsItsPrefix
  intro s t ht hok hpos
  rw [exec_next] at ht
  subst ht
  rw [commandOf] at hok ⊢
  rcases runCommand_rank_cases hpos with ⟨r, hle, k, hrank1, -⟩ | ⟨e, info, k, hrank1, -⟩
  · have hlt := arg0S_toNat_lt s.ctx
    rw [hrank1]
    show (zext64 r).toNat ≤ _
    rwa [toNat_zext64 (by omega)]
  · rw [hrank1] at hok
    cases hok

end Sys2Proof.Machine
end

section
/-! SUPPORT and the proofs about RANK1 and RANK0 on a conforming dictionary (R61, R62, R160 to R163). -/

namespace Sys2Proof.Machine

/-! ### `ones` (R61) -/

theorem ones_add_right (X : List Bool) (a k : Nat) : ones X a (a + k) = ((X.drop a).take k).count true := by
  rw [ones, List.drop_take, Nat.add_sub_cancel_left]

/-- The set bits of two adjoining ranges are those of the whole. -/
theorem ones_add_ones (X : List Bool) {a b d : Nat} (hab : a ≤ b) (hbd : b ≤ d) :
    ones X a b + ones X b d = ones X a d := by
  obtain ⟨k, rfl⟩ := Nat.exists_eq_add_of_le hab
  obtain ⟨l, rfl⟩ := Nat.exists_eq_add_of_le hbd
  rw [ones_add_right X a k, ones_add_right X (a + k) l, Nat.add_assoc, ones_add_right, List.take_add, List.count_append,
    List.drop_drop]

@[simp] theorem ones_self (X : List Bool) (a : Nat) : ones X a a = 0 := by
  simpa using ones_add_right X a 0

theorem ones_succ_self (X : List Bool) (b : Nat) : ones X b (b + 1) = (X.getD b false).toNat := by
  rw [ones_add_right, List.getD_eq_getElem?_getD, ← List.head?_drop]
  cases X.drop b with
  | nil => rfl
  | cons x xs => cases x <;> rfl

/-- One bit more counts where it is set; past the vector's end it is clear. -/
theorem ones_succ (X : List Bool) {a b : Nat} (h : a ≤ b) :
    ones X a (b + 1) = ones X a b + (X.getD b false).toNat := by
  rw [← ones_succ_self, ones_add_ones X h (Nat.le_succ b)]

theorem ones_le (X : List Bool) (a b : Nat) : ones X a b ≤ b :=
  calc ones X a b ≤ ((X.take b).drop a).length := List.count_le_length
    _ ≤ b := by
      rw [List.length_drop, List.length_take]
      omega

/-! ### The groups of a bit-vector (R11, R62) -/

/-- Bit `l` of group `g`, the most significant first. -/
theorem getLsbD_vectorGroup (X : List Bool) (g : Nat) {l : Nat} (h : l < 16) :
    (vectorGroup X g).getLsbD (15 - l) = X.getD (16 * g + l) false := by
  rw [vectorGroup, BitVec.getLsbD_ofNat, testBit_bitsValue, show 16 - 1 - (15 - l) = l by omega]
  simp [show 15 - l < 16 by omega]

/-- `smallRank` of a group counts the vector's set bits from the group's start on (R103). -/
theorem smallRank_vectorGroup (X : List Bool) (g : Nat) {l : Nat} (h : l ≤ 16) :
    smallRank (vectorGroup X g) l = ones X (16 * g) (16 * g + l) := by
  induction l with
  | zero => simp
  | succ l ih =>
    rw [smallRank_succ _ h, ih (by omega), getLsbD_vectorGroup X g h, ← Nat.add_assoc,
      ones_succ X (Nat.le_add_right _ _)]

theorem popcount_vectorGroup (X : List Bool) (g : Nat) :
    popcount (vectorGroup X g) = ones X (16 * g) (16 * (g + 1)) := by
  rw [← smallRank_sixteen, smallRank_vectorGroup X g (le_refl 16), Nat.mul_succ]

/-! ### Codewords (R62, R102, R107) -/

/-- Every entry of a well-formed class's table has as many set bits as the class says (R102, R107). -/
theorem popcount_pattern {r : Rom} (hrom : r.wellFormed = true) {cls o : Nat} (h1 : 1 ≤ cls) (h16 : cls ≤ 16)
    (ho : o < r.entries cls) : popcount (r.pattern cls o) = cls := by
  simp only [Rom.wellFormed, Bool.and_eq_true, List.all_eq_true, List.mem_range] at hrom
  have hcls : (r.classEntry cls).wellFormed cls = true := by
    have h := hrom.2 (cls - 1) (by omega)
    rwa [Nat.sub_add_cancel h1] at h
  cases htable : (r.classEntry cls).table with
  | ascending =>
    rw [Rom.entries_of_ascending h1 htable] at ho
    rw [popcount, Rom.toNat_pattern_of_ascending h1 htable]
    exact (nthPattern_spec ho).1
  | listed ps =>
    have hlen : o < ps.length := by
      simpa [Rom.entries, show cls ≠ 0 by omega, htable] using ho
    have hpattern : r.pattern cls o = ps[o] := by
      simp [Rom.pattern, show cls ≠ 0 by omega, htable, hlen]
    simp only [RomClass.wellFormed, htable, Bool.and_eq_true, List.all_eq_true, beq_iff_eq] at hcls
    rw [hpattern]
    exact hcls.2.2 _ (List.getElem_mem hlen)

/-- The pattern of class 0 repeats its flag (R100). -/
theorem popcount_pattern_zero (r : Rom) (flag : Bool) : popcount (r.pattern 0 flag.toNat) = 16 * flag.toNat := by
  cases flag with
  | false => exact (by decide : popcount 0x0000 = 0)
  | true => exact (by decide : popcount 0xFFFF = 16)

/-- A conforming codeword counts the set bits of its group (R62). -/
theorem CodewordOk.codewordOnes_eq {r : Rom} {bit : Nat → Bool} {X : List Bool} {g pos : Nat} {x : Nat × Nat}
    (h : CodewordOk r bit X g pos x) (hrom : r.wellFormed = true) :
    codewordOnes bit pos = ones X (16 * g) (16 * (g + 1)) := by
  obtain ⟨hcls, hentry, hpattern, hclass, hoffset⟩ := h
  rw [← popcount_vectorGroup, ← hpattern, codewordOnes, classBits, hclass]
  by_cases h0 : x.1 = 0
  case pos =>
    rw [h0, offsetBits_zero] at hoffset
    have hflag : x.2 = (bit (pos + 4)).toNat := by simpa [bitsValue] using hoffset.symm
    rw [if_pos h0, h0, hflag, popcount_pattern_zero]
  case neg =>
    rw [if_neg h0, popcount_pattern hrom (by omega) (by omega) hentry]

/-- The codeword after a conforming one starts at its end (R62). -/
theorem CodewordOk.codewordEnd_eq {r : Rom} {bit : Nat → Bool} {X : List Bool} {g pos : Nat} {x : Nat × Nat}
    (h : CodewordOk r bit X g pos x) : codewordEnd r bit pos = pos + (4 + r.offsetBits x.1) := by
  obtain ⟨-, -, -, hclass, -⟩ := h
  rw [codewordEnd, classBits, hclass, Nat.add_assoc]

theorem bodyLength_append (r : Rom) (u v : List (Nat × Nat)) :
    bodyLength r (u ++ v) = bodyLength r u + bodyLength r v := by
  rw [bodyLength, List.map_append, List.sum_append, bodyLength, bodyLength]

theorem gstart_succ (r : Rom) (cws : List (Nat × Nat)) {g : Nat} (h : g < cws.length) :
    gstart r cws (g + 1) = gstart r cws g + (4 + r.offsetBits cws[g].1) := by
  rw [gstart, List.take_succ_eq_append_getElem h, bodyLength_append]
  rfl

theorem gstart_le_bodyLength (r : Rom) (cws : List (Nat × Nat)) (g : Nat) : gstart r cws g ≤ bodyLength r cws :=
  calc gstart r cws g ≤ bodyLength r (cws.take g) + bodyLength r (cws.drop g) := Nat.le_add_right _ _
    _ = bodyLength r cws := by rw [← bodyLength_append, List.take_append_drop]

/-! ### The index arrays (R61) -/

theorem l3Index_lt {i n : Nat} (hi : i < n) : i / l3Span < (headerOf n).l3N :=
  Nat.lt_succ_of_le (Nat.div_le_div_right hi.le)

theorem l12Index_lt {i n : Nat} (hi : i < n) : i / l12Span < (headerOf n).l12N :=
  Nat.lt_succ_of_le (Nat.div_le_div_right hi.le)

/-- The L12 block that holds a bit lies in the L3 block that holds it. -/
theorem l12Index_div (i : Nat) : i / l12Span / l12PerL3 = i / l3Span := Nat.div_div_eq_div_mul _ _ _

theorem quarterIndex_le (i : Nat) : i % l12Span / qSpan ≤ 3 := by
  simp only [l12Span, qSpan]
  omega

/-- Deltas that lead from each value of `F` to the next add up (R161). -/
theorem add_deltaSum {F d : Nat → Nat} {q : Nat} (h : ∀ t < q, F t + d (t + 1) = F (t + 1)) :
    F 0 + deltaSum d q = F q := by
  induction q with
  | zero => rfl
  | succ q ih => rw [deltaSum, ← Nat.add_assoc, ih fun t ht => h t (by omega), h q (by omega)]

section
variable {c : Ctx} {st : Store} {X : List Bool} {cws : List (Nat × Nat)} (h : Conforming c st X cws)
include h

theorem Conforming.headerOk : HeaderOk c st X.length where
  view := h.view
  quiet := h.quiet
  length := h.length
  header := h.header
  fits := by
    have := h.fits
    omega

/-- The index arrays count the set bits before the quarter (R61, R161). -/
theorem Conforming.quarterRank_eq {i : Nat} (hi : i < X.length) :
    quarterRank c st X.length i = ones X 0 (i / qSpan * qSpan) := by
  have hq := quarterIndex_le i
  have hblock : i / l3Span * l3Span ≤ i / l12Span * l12Span := by
    simp only [l12Span, l3Span]
    omega
  have hspan : i / l12Span * l12Span + i % l12Span / qSpan * qSpan = i / qSpan * qSpan := by
    simp only [l12Span, qSpan]
    omega
  have hdelta := add_deltaSum (F := fun t => ones X 0 (i / l12Span * l12Span + t * qSpan))
    (d := c.pack.rd (dictEntry c st ((headerOf X.length).rankL12At (i / l12Span)))) (q := i % l12Span / qSpan)
    fun t ht => by
      rw [dictEntry, h.rankDelta _ (l12Index_lt hi) t (by omega)]
      exact ones_add_ones X (Nat.zero_le _) (by simp only [qSpan]; omega)
  simp only [Nat.zero_mul, Nat.add_zero, hspan] at hdelta
  rw [← hdelta, quarterRank, dictEntry, dictEntry, h.rankL3 _ (l3Index_lt hi), h.rankBase _ (l12Index_lt hi),
    l12Index_div, ones_add_ones X (Nat.zero_le _) hblock]

/-- The index arrays give the body offset of the quarter's first group (R61, R161). -/
theorem Conforming.quarterPos_eq {i : Nat} (hi : i < X.length) :
    quarterPos c st X.length i = gstart c.rom cws (i / qSpan * groupsPerQ) := by
  have hq := quarterIndex_le i
  have hspan : i / l12Span * 128 + i % l12Span / qSpan * groupsPerQ = i / qSpan * groupsPerQ := by
    simp only [l12Span, qSpan, groupsPerQ]
    omega
  have hdelta := add_deltaSum (F := fun t => gstart c.rom cws (i / l12Span * 128 + t * groupsPerQ))
    (q := i % l12Span / qSpan) fun t ht => h.posDelta _ (l12Index_lt hi) t (by omega)
  simp only [Nat.zero_mul, Nat.add_zero, hspan] at hdelta
  rw [← hdelta, quarterPos, dictEntry, dictEntry, h.posL3 _ (l3Index_lt hi), ← l12Index_div,
    h.posBase _ (l12Index_lt hi)]

/-! ### The groups (R62, R161) -/

/-- Groups scanned from a conforming group's start on count their set bits and end where the next group starts (R161). -/
theorem Conforming.scannedGroups_eq {g₀ g : Nat} (hg : g₀ + g ≤ cws.length) :
    scannedGroups c.rom (bodyBit c st X.length) (gstart c.rom cws g₀) g =
      (ones X (16 * g₀) (16 * (g₀ + g)), gstart c.rom cws (g₀ + g)) := by
  induction g with
  | zero => simp [scannedGroups]
  | succ g ih =>
    have hlt : g₀ + g < cws.length := by omega
    have hcw := h.codewords _ hlt
    rw [scannedGroups_succ, ih hlt.le, ← Nat.add_assoc g₀, gstart_succ _ _ hlt]
    refine Prod.ext ?_ hcw.codewordEnd_eq
    show _ + codewordOnes (bodyBit c st X.length) _ = _
    rw [bodyBit, hcw.codewordOnes_eq h.romOk, ones_add_ones X (by omega) (by omega)]

theorem Conforming.group_lt {i : Nat} (hi : i < X.length) : i / 16 < cws.length := by
  rw [h.groups]
  omega

/-- `Rank1Core` reaches the group that holds bit `i` with the set bits before it counted (R161). -/
theorem Conforming.rankCursor_eq {i : Nat} (hi : i < X.length) :
    rankCursor c st X.length i = (ones X 0 (16 * (i / 16)), gstart c.rom cws (i / 16)) := by
  have hgroup : i / qSpan * groupsPerQ + i % qSpan / groupBits = i / 16 := by
    simp only [qSpan, groupsPerQ, groupBits]
    omega
  have hquarter : i / qSpan * qSpan = 16 * (i / qSpan * groupsPerQ) := by
    simp only [qSpan, groupsPerQ]
    omega
  have hscan := h.scannedGroups_eq (hgroup.trans_le (h.group_lt hi).le)
  rw [rankCursor, h.quarterPos_eq hi, hscan, h.quarterRank_eq hi, hquarter,
    ones_add_ones X (Nat.zero_le _) (Nat.mul_le_mul_left 16 (Nat.le_add_right _ _)), hgroup]

/-- The last group's checks pass, and its prefix completes the count (R161, R163). -/
theorem Conforming.lastGroupOutcome_eq {i : Nat} (hi : i < X.length) :
    lastGroupOutcome c st X.length i (rankCursor c st X.length i) = .ok (ones X 0 (i + 1)) := by
  have hlt := h.group_lt hi
  obtain ⟨-, hentry, hpattern, hclass, hoffset⟩ := h.codewords _ hlt
  have hcls : groupClass c st X.length (gstart c.rom cws (i / 16)) = cws[i / 16].1 := hclass
  have hoff : groupOffset c st X.length (gstart c.rom cws (i / 16)) = cws[i / 16].2 := by
    rw [groupOffset, hcls]
    exact hoffset
  have hinside : ¬ c.dictWords ≤
      (headerOf X.length).body + (gstart c.rom cws (i / 16) + 3 + c.rom.offsetBits cws[i / 16].1) / 64 := by
    have hfits := h.fits
    have hend := gstart_le_bodyLength c.rom cws (i / 16 + 1)
    rw [gstart_succ _ _ hlt] at hend
    omega
  have hcount : rankThrough c st X.length i (ones X 0 (16 * (i / 16)), gstart c.rom cws (i / 16)) =
      ones X 0 (i + 1) := by
    rw [rankThrough, hcls, hoff, hpattern, smallRank_vectorGroup X _ (by simp only [groupBits]; omega),
      ones_add_ones X (Nat.zero_le _) (Nat.le_add_right _ _)]
    congr 1
    simp only [groupBits]
    omega
  rw [h.rankCursor_eq hi, lastGroupOutcome, hcls, hoff, hcount, if_neg]
  simp only [not_or, Nat.not_lt]
  exact ⟨hinside, Nat.not_le.mpr hentry, ones_le X 0 (i + 1)⟩

end

/-! ### The commands (R160, R162, R163) -/

/-- RANK1 and RANK0 of an index below `n` complete with the set and the clear bits up to it (R163). -/
theorem exec_rank_of_conforming {s : State} {X : List Bool} {cws : List (Nat × Nat)} {i : Nat}
    (h : Conforming s.ctx s.store X cws) (hi : i < X.length) (harg : s.ctx.arg0S = i) :
    ∃ k, exec .rank1 s = .next (s.succeeds (zext64 (ones X 0 (i + 1))) k) ∧
      exec .rank0 s = .next (s.succeeds (zext64 (i + 1 - ones X 0 (i + 1))) k) :=
  (exec_rank_of_headerOk h.headerOk h.romOk harg hi).2 _ (h.lastGroupOutcome_eq hi)

/-- Settles O53: the index arrays, the groups before the last and the last group's prefix count the bits of `[0, i]`. -/
theorem rank1CountsSetBitsOfAConformingDictionary : Obligations.Rank1CountsSetBitsOfAConformingDictionary := by
  unfold Obligations.Rank1CountsSetBitsOfAConformingDictionary
  exact fun s X cws i h hi harg => (exec_rank_of_conforming h hi harg).imp fun _ => And.left

/-- Settles O54: RANK0 is `i + 1` less the same count. -/
theorem rank0CountsClearBitsOfAConformingDictionary : Obligations.Rank0CountsClearBitsOfAConformingDictionary := by
  unfold Obligations.Rank0CountsClearBitsOfAConformingDictionary
  exact fun s X cws i h hi harg => (exec_rank_of_conforming h hi harg).imp fun _ => And.right

end Sys2Proof.Machine
end

section
/-! SUPPORT and the proofs about SELECT1 and SELECT0 on a conforming dictionary (R61, R62, R190 to R194). The one idea:
of the vector with its padding, `matching X one b` bits below `b` match, and this does not decrease in `b`. So every
stage, which asks where fewer bits match than are to be found, asks where a span begins at or before the target `p`, and
each stage leaves the cursor at the start of the span that holds `p`. -/

namespace Sys2Proof.Machine

/-! ### The matching bits below a position (R190, R193) -/

/-- The set bits of `X` below `b`, or the clear ones, the padding after the vector's end counted as clear. -/
def matching (X : List Bool) (one : Bool) (b : Nat) : Int := countOf one b (ones X 0 b)

theorem matching_zero (X : List Bool) (one : Bool) : matching X one 0 = 0 := by
  cases one <;> simp [matching, countOf]

theorem matching_succ (X : List Bool) (one : Bool) (b : Nat) :
    matching X one (b + 1) = matching X one b + if X.getD b false = one then 1 else 0 := by
  rw [matching, ones_succ X (Nat.zero_le b), countOf_add]
  cases one <;> cases X.getD b false <;> rfl

theorem matching_mono (X : List Bool) (one : Bool) : Monotone (matching X one) :=
  monotone_nat_of_le_succ fun b => by
    rw [matching_succ]
    split <;> omega

theorem matching_true (X : List Bool) (b : Nat) : matching X true b = ones X 0 b := rfl

theorem matching_false (X : List Bool) (b : Nat) : matching X false b = ((b - ones X 0 b : Nat) : Int) :=
  (Nat.cast_sub (ones_le X 0 b)).symm

/-- The matching bits of a span, from its set bits. -/
theorem countOf_ones (X : List Bool) (one : Bool) (a span : Nat) :
    countOf one span (ones X a (a + span)) = matching X one (a + span) - matching X one a := by
  rw [matching, ← ones_add_ones X (Nat.zero_le a) (Nat.le_add_right a span), countOf_add, matching,
    add_sub_cancel_left]

/-- `p` is a position of `X` whose bit matches. -/
def MatchesAt (X : List Bool) (one : Bool) (p : Nat) : Prop := X[p]? = some one

theorem MatchesAt.lt_length {X : List Bool} {one : Bool} {p : Nat} (h : MatchesAt X one p) : p < X.length :=
  (List.getElem?_eq_some_iff.mp h).1

theorem MatchesAt.getD_eq {X : List Bool} {one : Bool} {p : Nat} (h : MatchesAt X one p) : X.getD p false = one := by
  rw [List.getD_eq_getElem?_getD, h, Option.getD_some]

/-- Fewer bits match below `b` than up to the target and with it, exactly when `b` is at or before the target. -/
theorem MatchesAt.matching_lt_iff {X : List Bool} {one : Bool} {p b : Nat} (h : MatchesAt X one p) :
    matching X one b < matching X one p + 1 ↔ b ≤ p := by
  have hsucc := matching_succ X one p
  rw [if_pos h.getD_eq] at hsucc
  constructor
  · intro hlt
    by_contra hb
    have hmono : matching X one (p + 1) ≤ matching X one b := matching_mono X one (Nat.lt_of_not_le hb)
    omega
  · intro hb
    have := matching_mono X one hb
    omega

/-- Below a number of matching bits, every count is that of the bits before some matching one. -/
theorem exists_matching_eq {X : List Bool} {one : Bool} {k : Int} {b : Nat} (h0 : 0 ≤ k) (h : k < matching X one b) :
    ∃ p < b, X.getD p false = one ∧ matching X one p = k := by
  induction b with
  | zero =>
    rw [matching_zero] at h
    omega
  | succ b ih =>
    by_cases hlt : k < matching X one b
    case pos =>
      obtain ⟨p, hp, hfound⟩ := ih hlt
      exact ⟨p, hp.trans (Nat.lt_succ_self b), hfound⟩
    case neg =>
      rw [matching_succ] at h
      split at h
      case isTrue hbit => exact ⟨b, Nat.lt_succ_self b, hbit, by omega⟩
      case isFalse => omega

theorem exists_matchesAt {X : List Bool} {one : Bool} {k : Nat} (h : (k : Int) < matching X one X.length) :
    ∃ p, MatchesAt X one p ∧ matching X one p = k := by
  obtain ⟨p, hlt, hbit, hcount⟩ := exists_matching_eq (Int.natCast_nonneg k) h
  refine ⟨p, ?_, hcount⟩
  rw [MatchesAt, List.getElem?_eq_getElem hlt, ← hbit, List.getD_eq_getElem _ _ hlt]

/-- The matching bits before bit `l` of group `g` are those of the group's pattern before it (R62). -/
theorem countP_vectorGroup (X : List Bool) (one : Bool) (g : Nat) {l : Nat} (hl : l ≤ 16) :
    (((List.range l).countP fun b => (vectorGroup X g).getLsbD (15 - b) == one : Nat) : Int) =
      matching X one (16 * g + l) - matching X one (16 * g) := by
  induction l with
  | zero => simp
  | succ l ih =>
    rw [List.range_succ, List.countP_append, List.countP_singleton, Nat.cast_add, ih (by omega),
      getLsbD_vectorGroup X g hl, ← Nat.add_assoc, matching_succ]
    simp only [beq_iff_eq, Nat.cast_ite, Nat.cast_one, Nat.cast_zero]
    exact sub_add_eq_add_sub _ _ _

/-! ### The searches and the quarter tests, for values that split at an index (R141, R190) -/

/-- Where the values below `val` are those of the indices up to `r`, the search chooses `r`. -/
theorem bsearchGT_of_split {cnt r : Nat} {g : Nat → Int} {val : Int} (hr : r < cnt)
    (hsplit : ∀ m < cnt, g m < val ↔ m ≤ r) (st : Store) (k : Nat) :
    bsearchGT cnt (fun m => .pure (g m)) val st k = .ret r k := by
  have hloop := bsearchLoop_of_split (g := g) (bound := cnt) (Nat.zero_le (r + 1)) (Nat.succ_le_of_lt hr) (by omega)
    fun m hm => (hsplit m hm).trans Nat.lt_succ_iff.symm
  rw [bsearchGT, hloop, Engine.pure_bind, Nat.add_sub_cancel, Engine.pure_run]

/-- Where the tests pass up to quarter `q` and lead from each cursor of `F` to the next, the quarter stage ends at
`F q`. -/
theorem quarterStage_of_split {p : Pack} {n : Nat} {one : Bool} {rw pw : Word} {F : Nat → Cursor} {q t m : Nat}
    (htest : ∀ t < 3, (F t).sel + qSpan < n ∧ countOf one qSpan (p.rd rw (t + 1)) < (F t).val ↔ t < q)
    (hnext : ∀ t < q, F (t + 1) = ⟨(F t).val - countOf one qSpan (p.rd rw (t + 1)), (F t).pos + p.pd pw (t + 1),
      (F t).sel + qSpan⟩)
    (htq : t ≤ q) (hq : q ≤ t + m) (hm : t + m ≤ 3) :
    quarterStage p n one rw pw (List.range' (t + 1) m) (F t) = F q := by
  induction m generalizing t with
  | zero =>
    obtain rfl : t = q := by omega
    rfl
  | succ m ih =>
    rw [List.range'_succ, quarterStage]
    by_cases hlt : t < q
    · rw [if_pos ((htest t (by omega)).mpr hlt), ← hnext t hlt]
      exact ih hlt (by omega) (by omega)
    · obtain rfl : t = q := by omega
      rw [if_neg (mt (htest t (by omega)).mp hlt)]

/-- An L12 block's index is that of its L3 block's first and its own relative to it (R190). -/
theorem l12Index_eq (i : Nat) :
    i / l3Span * l12PerL3 + (i / l12Span - i / l3Span * l12PerL3) = i / l12Span := by
  simp only [l12Span, l3Span, l12PerL3]
  omega

theorem headerOf_n (n : Nat) : (headerOf n).n = n := rfl

/-! ### The stages on a conforming dictionary (R190, R194) -/

/-- The cursor at bit `b` of the vector, with the target `p` and the matching bits from `b` up to it still to find. -/
def selectCursor (r : Rom) (X : List Bool) (cws : List (Nat × Nat)) (one : Bool) (p b : Nat) : Cursor :=
  ⟨matching X one p + 1 - matching X one b, gstart r cws (b / 16), b⟩

section
variable {c : Ctx} {st : Store} {X : List Bool} {cws : List (Nat × Nat)} (h : Conforming c st X cws) {one : Bool}
  {p : Nat}
include h

/-- The codewords lie in the view, have their offsets in their tables and decode to their groups (R62). -/
theorem Conforming.codeword_good {g : Nat} (hg : g < cws.length) :
    ¬CodewordBad c st X.length (gstart c.rom cws g) ∧
      codewordPattern c st X.length (gstart c.rom cws g) = vectorGroup X g := by
  obtain ⟨-, hentry, hpattern, hclass, hoffset⟩ := h.codewords g hg
  have hcls : groupClass c st X.length (gstart c.rom cws g) = cws[g].1 := hclass
  have hoff : groupOffset c st X.length (gstart c.rom cws g) = cws[g].2 := by
    rw [groupOffset, hcls]
    exact hoffset
  rw [CodewordBad, codewordPattern, hcls, hoff]
  refine ⟨not_or.mpr ⟨?_, Nat.not_le.mpr hentry⟩, hpattern⟩
  have hfits := h.fits
  have hend := gstart_le_bodyLength c.rom cws (g + 1)
  rw [gstart_succ _ _ hg] at hend
  omega

theorem Conforming.l3Value_eq {m : Nat} (hm : m < (headerOf X.length).l3N) :
    l3Value c st X.length one m = matching X one (m * l3Span) := by
  rw [l3Value, dictEntry, h.rankL3 m hm, matching]

/-- The `m`-th L12 block of an L3 block counts from the L3 block's start (R61). -/
theorem Conforming.l12Value_eq {l3 m : Nat} (hm : m < l12Blocks X.length (l3 * l12PerL3)) :
    l12Value c st X.length one (l3 * l12PerL3) m =
      matching X one ((l3 * l12PerL3 + m) * l12Span) - matching X one (l3 * l3Span) := by
  obtain ⟨hin, hblock⟩ := Nat.lt_min.mp hm
  have hdiv : (l3 * l12PerL3 + m) / l12PerL3 = l3 := by
    simp only [l12PerL3] at hblock ⊢
    omega
  have hspan : (l3 * l12PerL3 + m) * l12Span = l3 * l3Span + m * l12Span := by
    simp only [l12PerL3, l12Span, l3Span]
    omega
  rw [l12Value, dictEntry, h.rankBase _ (by omega), hdiv, hspan, countOf_ones]

variable (hp : MatchesAt X one p)
include hp

/-- The L3 search chooses the block that holds the target. -/
theorem Conforming.l3Search (k : Nat) :
    bsearchGT (headerOf X.length).l3N (fun m => .pure (l3Value c st X.length one m)) (matching X one p + 1) st k =
      .ret (p / l3Span) k := by
  refine bsearchGT_of_split (l3Index_lt hp.lt_length) (fun m hm => ?_) st k
  rw [h.l3Value_eq hm, hp.matching_lt_iff]
  exact (Nat.le_div_iff_mul_le (by decide)).symm

/-- The L12 search chooses the block that holds the target, counted from the L3 block's first. -/
theorem Conforming.l12Search (k : Nat) :
    bsearchGT (l12Blocks X.length (p / l3Span * l12PerL3))
      (fun m => .pure (l12Value c st X.length one (p / l3Span * l12PerL3) m))
      (matching X one p + 1 - matching X one (p / l3Span * l3Span)) st k =
        .ret (p / l12Span - p / l3Span * l12PerL3) k := by
  have hlt := hp.lt_length
  refine bsearchGT_of_split ?_ (fun m hm => ?_) st k
  · simp only [l12Blocks, headerOf, l12Span, l3Span, l12PerL3]
    omega
  · rw [h.l12Value_eq hm, sub_lt_sub_iff_right, hp.matching_lt_iff]
    simp only [l12Span, l3Span, l12PerL3]
    omega

/-- From the start of the target's L12 block the quarter tests stop at the quarter that holds the target (R190). -/
theorem Conforming.quarterStage_eq :
    quarterStage c.pack X.length one (dictEntry c st ((headerOf X.length).rankL12At (p / l12Span)))
      (dictEntry c st ((headerOf X.length).posL12At (p / l12Span))) [1, 2, 3]
      (selectCursor c.rom X cws one p (p / l12Span * l12Span)) =
        selectCursor c.rom X cws one p (p / qSpan * qSpan) := by
  have hlt := hp.lt_length
  have hindex := l12Index_lt hlt
  have hq := quarterIndex_le p
  have hend : p / l12Span * l12Span + p % l12Span / qSpan * qSpan = p / qSpan * qSpan := by
    simp only [l12Span, qSpan]
    omega
  have hcount {t : Nat} (ht : t < 3) :
      countOf one qSpan (c.pack.rd (dictEntry c st ((headerOf X.length).rankL12At (p / l12Span))) (t + 1)) =
        matching X one (p / l12Span * l12Span + (t + 1) * qSpan) -
          matching X one (p / l12Span * l12Span + t * qSpan) := by
    rw [dictEntry, h.rankDelta _ hindex t ht, Nat.succ_mul, ← Nat.add_assoc, countOf_ones]
  have hgroup (t : Nat) : (p / l12Span * l12Span + t * qSpan) / 16 = p / l12Span * 128 + t * groupsPerQ := by
    simp only [l12Span, qSpan, groupsPerQ]
    omega
  have htest (t : Nat) (ht : t < 3) : p / l12Span * l12Span + t * qSpan + qSpan < X.length ∧
      countOf one qSpan (c.pack.rd (dictEntry c st ((headerOf X.length).rankL12At (p / l12Span))) (t + 1)) <
        matching X one p + 1 - matching X one (p / l12Span * l12Span + t * qSpan) ↔ t < p % l12Span / qSpan := by
    rw [hcount ht, sub_lt_sub_iff_right, hp.matching_lt_iff]
    simp only [l12Span, qSpan]
    omega
  have hnext (t : Nat) (ht : t < p % l12Span / qSpan) :
      selectCursor c.rom X cws one p (p / l12Span * l12Span + (t + 1) * qSpan) =
        ⟨matching X one p + 1 - matching X one (p / l12Span * l12Span + t * qSpan) -
            countOf one qSpan (c.pack.rd (dictEntry c st ((headerOf X.length).rankL12At (p / l12Span))) (t + 1)),
          gstart c.rom cws ((p / l12Span * l12Span + t * qSpan) / 16) +
            c.pack.pd (dictEntry c st ((headerOf X.length).posL12At (p / l12Span))) (t + 1),
          p / l12Span * l12Span + t * qSpan + qSpan⟩ := by
    rw [hcount (by omega), sub_sub_sub_cancel_right, hgroup, dictEntry, h.posDelta _ hindex t (by omega), ← hgroup,
      Nat.add_assoc, ← Nat.succ_mul, selectCursor]
  have hsplit := quarterStage_of_split (t := 0)
    (F := fun t => selectCursor c.rom X cws one p (p / l12Span * l12Span + t * qSpan))
    (m := 3) htest hnext (Nat.zero_le _) (by omega) (le_refl 3)
  simp only [hend, Nat.zero_mul, Nat.add_zero] at hsplit
  exact hsplit

/-- The two index stages and the quarter tests lead to the quarter that holds the target (R190). -/
theorem Conforming.quarterCursor_eq :
    quarterCursor c st X.length one (p / l3Span) (p / l3Span * l12PerL3) (p / l12Span - p / l3Span * l12PerL3)
      (matching X one p + 1 - matching X one (p / l12Span * l12Span)) =
        selectCursor c.rom X cws one p (p / qSpan * qSpan) := by
  have hlt := hp.lt_length
  have hgroup : p / l12Span * 128 = p / l12Span * l12Span / 16 := by
    simp only [l12Span]
    omega
  have hpos : u64 (dictEntry c st ((headerOf X.length).posL3At (p / l3Span))) +
      c.pack.pb (dictEntry c st ((headerOf X.length).posL12At (p / l12Span))) =
        gstart c.rom cws (p / l12Span * l12Span / 16) := by
    rw [dictEntry, dictEntry, h.posL3 _ (l3Index_lt hlt), ← l12Index_div, h.posBase _ (l12Index_lt hlt), hgroup]
  rw [quarterCursor, l12Index_eq, hpos]
  exact h.quarterStage_eq hp

omit hp in
/-- Groups passed from a group's start on lead to the start of a later group (R190). -/
theorem Conforming.selectCursor_after {g₀ g : Nat} (hg : g₀ + g ≤ cws.length) :
    (selectCursor c.rom X cws one p (16 * g₀)).after c st X.length one g =
      selectCursor c.rom X cws one p (16 * (g₀ + g)) := by
  have hdiv (m : Nat) : 16 * m / 16 = m := Nat.mul_div_cancel_left m (by decide)
  have hscan := h.scannedGroups_eq hg
  have hcount := countOf_ones X one (16 * g₀) (16 * g)
  rw [← Nat.mul_add] at hcount
  simp only [selectCursor, Cursor.after, matchesBefore, groupBits, hdiv, hscan, hcount, ← Nat.mul_add,
    sub_sub_sub_cancel_right]

omit h in
/-- In its group the bit stage finds the target (R190). -/
theorem bitStage_of_matchesAt (r : Rom) (cws : List (Nat × Nat)) :
    bitStage (headerOf X.length) one (vectorGroup X (p / 16)) (selectCursor r X cws one p (16 * (p / 16))) = .pure p := by
  have hmod : p % 16 < 16 := Nat.mod_lt p (by decide)
  have hsum := Nat.div_add_mod p 16
  have hbit : (vectorGroup X (p / 16)).getLsbD (15 - p % 16) = one := by
    rw [getLsbD_vectorGroup X _ hmod, hsum, hp.getD_eq]
  have hcount := countP_vectorGroup X one (p / 16) hmod.le
  rw [hsum] at hcount
  have hfound := bitStage_of_below (h := headerOf X.length) (x := selectCursor r X cws one p (16 * (p / 16))) hmod hbit
    (by rw [hcount, selectCursor, sub_add_eq_add_sub]) (hsum.trans_lt hp.lt_length)
  rw [hfound, selectCursor, hsum]

/-- Inside its quarter the group stage finds the target's group, whose codeword is good (R190). -/
theorem Conforming.selectInQuarter_ends : (selectInQuarter c (headerOf X.length) one
    (selectCursor c.rom X cws one p (p / qSpan * qSpan))).Ends st (.ok p) := by
  have hgroup := h.group_lt hp.lt_length
  obtain ⟨g, hg, hsum, hstart⟩ : ∃ g < groupsPerQ, p / qSpan * groupsPerQ + g = p / 16 ∧
      p / qSpan * qSpan = 16 * (p / qSpan * groupsPerQ) := by
    refine ⟨p / 16 - p / qSpan * groupsPerQ, ?_⟩
    simp only [qSpan, groupsPerQ]
    omega
  have hafter := h.selectCursor_after (one := one) (p := p) (hsum.trans_le hgroup.le)
  have hnext := h.selectCursor_after (one := one) (p := p) (g₀ := p / qSpan * groupsPerQ) (g := g + 1) (by omega)
  rw [hsum] at hafter
  rw [← Nat.add_assoc, hsum] at hnext
  have hbefore := hp.matching_lt_iff.mpr (Nat.mul_div_le p 16)
  have hwithin := mt (hp.matching_lt_iff (b := 16 * (p / 16 + 1))).mp (by omega)
  obtain ⟨hgood, hpattern⟩ := h.codeword_good hgroup
  have hpos : (selectCursor c.rom X cws one p (16 * (p / 16))).pos = gstart c.rom cws (p / 16) := by
    rw [selectCursor, Nat.mul_div_cancel_left _ (by decide)]
  rw [← hpos] at hgood hpattern
  rw [hstart]
  refine selectInQuarter_of_good_codeword h.quiet X.length h.romOk hg (Cursor.after_val_pos.mp ?_)
    (Int.not_lt.mp (mt Cursor.after_val_pos.mpr ?_)) ?_ ?_
  · rw [hafter]
    exact sub_pos.mpr hbefore
  · rw [hnext]
    exact mt sub_pos.mp hwithin
  · rwa [hafter]
  · rw [hafter, hpattern, bitStage_of_matchesAt hp]
    exact Engine.pure_ends p st

/-- The stages of `SelectCore` find the target (R190, R194). -/
theorem Conforming.selectStages_ends :
    (selectStages c (headerOf X.length) one (matching X one p + 1)).Ends st (.ok p) := by
  have hlt := hp.lt_length
  have hin : p / l12Span - p / l3Span * l12PerL3 < l12Blocks X.length (p / l3Span * l12PerL3) :=
    (bsearchGT_ends_of_values (one_le_l12Blocks (l3Index_lt hlt)) (h.l12Search hp (st := st) 0)).1
  have h₃ := (hp.matching_lt_iff (b := p / l3Span * l3Span)).mpr (Nat.div_mul_le_self _ _)
  have h₁₂ := (hp.matching_lt_iff (b := p / l12Span * l12Span)).mpr (Nat.div_mul_le_self _ _)
  refine selectStages_of_quarter h.headerOk (h.l3Search hp 0) ?_ (h.l12Search hp 0)
    (val₁₂ := matching X one p + 1 - matching X one (p / l12Span * l12Span)) ?_ (by omega) (by omega)
    (h.quarterCursor_eq hp ▸ h.selectInQuarter_ends hp)
  · rw [h.l3Value_eq (l3Index_lt hlt)]
  · rw [h.l12Value_eq hin, l12Index_eq, sub_sub_sub_cancel_right]

omit hp in
/-- `P` is the number of set bits (R191). -/
theorem Conforming.totalOnes_ends : (totalOnes c (headerOf X.length)).Ends st (.ok (ones X 0 X.length)) := by
  by_cases h0 : X.length = 0
  case pos =>
    rw [totalOnes, headerOf_n, if_pos h0, h0, ones_self]
    exact Engine.pure_ends 0 st
  case neg =>
    have hlast : X.length - 1 < X.length := Nat.sub_one_lt h0
    have hcore := rank1Core_ends h.headerOk h.romOk hlast
    rw [h.lastGroupOutcome_eq hlast, Nat.sub_one_add_one h0] at hcore
    rw [totalOnes, headerOf_n, if_neg h0]
    exact hcore

end

/-! ### The commands (R191 to R194) -/

/-- SELECT1, or SELECT0, of the count of matching bits before a matching one completes with its position (R194). -/
theorem exec_select_of_conforming {s : State} {X : List Bool} {cws : List (Nat × Nat)} {one : Bool} {k p : Nat}
    (h : Conforming s.ctx s.store X cws) (hp : MatchesAt X one p) (hk : matching X one p = k) (harg : s.ctx.arg0S = k) :
    ∃ n, exec (selectInstr one) s = .next (s.succeeds (zext64 p) n) := by
  have hbeyond := mt hp.matching_lt_iff.mp (Nat.not_le.mpr hp.lt_length)
  have hstages := h.selectStages_ends hp
  rw [hk] at hbeyond hstages
  have hadmits : SelectAdmits s.ctx s.store X.length one k :=
    ⟨h.headerOk, h.romOk, harg, _, h.totalOnes_ends, Int.lt_iff_add_one_le.mpr (Int.not_lt.mp hbeyond)⟩
  exact hadmits.succeeds hstages

/-- A key at or beyond the number of matching bits ends SELECT1, or SELECT0, with OutOfRange (R191). -/
theorem exec_select_outOfRange_of_conforming {s : State} {X : List Bool} {cws : List (Nat × Nat)} {one : Bool}
    (h : Conforming s.ctx s.store X cws) (hkey : matching X one X.length ≤ s.ctx.arg0S) :
    ∃ n, exec (selectInstr one) s = .next (s.failsWith .outOfRange 0 n) := by
  have hpos : ¬ s.ctx.arg0S < 0 := Int.not_lt.mpr ((countOf_nonneg one (ones_le X 0 X.length)).trans hkey)
  have hcore : (selectCore one s.ctx).Ends s.store (.error .outOfRange) := by
    rw [selectCore, if_neg hpos]
    refine h.headerOk.dictHeader_endsAfter.ends.bind_ok (h.totalOnes_ends.bind_ok ?_)
    rw [headerOf_n, ← matching, if_pos hkey]
    exact Engine.raise_ends _ _
  obtain ⟨n, hn⟩ := hcore
  rw [← commandOf_selectInstr] at hn
  exact ⟨n, exec_failsWith_of_endsAfter hn⟩

/-- Settles O55: the target is the set bit with `k` set bits before it, which lies in the span every stage
chooses. -/
theorem select1FindsTheSetBitOfAConformingDictionary : Obligations.Select1FindsTheSetBitOfAConformingDictionary := by
  unfold Obligations.Select1FindsTheSetBitOfAConformingDictionary
  intro s X cws k h hk harg
  have hkey : (k : Int) < matching X true X.length := by
    rw [matching_true]
    exact Int.ofNat_lt.mpr hk
  obtain ⟨p, hp, hcount⟩ := exists_matchesAt hkey
  obtain ⟨n, hn⟩ := exec_select_of_conforming h hp hcount harg
  rw [matching_true] at hcount
  exact ⟨p, n, hp, Int.ofNat_inj.mp hcount, hn⟩

/-- Settles O56: the same of the clear bits; the padding lies after every clear bit of the vector. -/
theorem select0FindsTheClearBitOfAConformingDictionary :
    Obligations.Select0FindsTheClearBitOfAConformingDictionary := by
  unfold Obligations.Select0FindsTheClearBitOfAConformingDictionary
  intro s X cws k h hk harg
  have hkey : (k : Int) < matching X false X.length := by
    rw [matching_false]
    exact Int.ofNat_lt.mpr hk
  obtain ⟨p, hp, hcount⟩ := exists_matchesAt hkey
  obtain ⟨n, hn⟩ := exec_select_of_conforming h hp hcount harg
  rw [matching_false] at hcount
  exact ⟨p, n, hp, Int.ofNat_inj.mp hcount, hn⟩

/-- Settles O57: the range check has the exact number of set, or clear, bits. -/
theorem selectRejectsKeysBeyondTheCount : Obligations.SelectRejectsKeysBeyondTheCount := by
  unfold Obligations.SelectRejectsKeysBeyondTheCount
  intro s X cws h
  rw [← matching_true, ← matching_false]
  exact ⟨exec_select_outOfRange_of_conforming h, exec_select_outOfRange_of_conforming h⟩

end Sys2Proof.Machine
end

section
/-! SUPPORT and proofs about how a command ends: what its completion writes and leaves, the host acts of its step, its
interrupt (R220, R224, R229, R230, R231). -/

namespace Sys2Proof.Machine

/-! ### What a completion leaves, and what it overwrites -/

@[simp] theorem State.complete_ie (s : State) (r : Run Word) : (s.complete r).ie = s.ie := by cases r <;> rfl
@[simp] theorem State.complete_snap (s : State) (r : Run Word) : (s.complete r).snap = s.snap := by cases r <;> rfl
@[simp] theorem State.complete_inputs (s : State) (r : Run Word) : (s.complete r).inputs = s.inputs := by cases r <;> rfl

/-- A completion sets DONE whatever it was and carries OVR along (R229, R231). -/
theorem State.complete_withFlags (s : State) (r : Run Word) (d o : Bool) :
    State.complete { s with done := d, ovr := o } r = { s.complete r with ovr := o } := by cases r <;> rfl

/-- DONE and OVR are no part of what the command in flight runs on. -/
theorem finishCommand_withFlags (s : State) (d o : Bool) :
    State.finishCommand { s with done := d, ovr := o } = .next { s.complete s.commandRun with ovr := o } := by
  have hrun : State.commandRun { s with done := d, ovr := o } = s.commandRun := rfl
  rw [finishCommand_eq, hrun, State.complete_withFlags]

/-- Settles O7: the write comes first and touches no more than the flags, of which the completion overwrites DONE. -/
theorem completionWinsOverSameStepWrites : Obligations.CompletionWinsOverSameStepWrites := by
  unfold Obligations.CompletionWinsOverSameStepWrites
  intro s w v rest hb hw
  set u : State := { s with inputs := rest, readData := none }
  have hidle : step { s with inputs := .idle :: rest } = u.finishCommand := step_due hb hw nofun rfl
  have hcmd : step { s with inputs := .write 0x08 8 w :: rest } = State.finishCommand (u.writeCmd w) :=
    step_due hb hw nofun (takeInput_applyInput_write (r := .cmd) rfl)
  have hack : step { s with inputs := .write 0x10 8 v :: rest } = State.finishCommand (u.ackStatus v) :=
    step_due hb hw nofun (takeInput_applyInput_write (r := .status) rfl)
  rw [writeCmd_busy (s := u) hb] at hcmd
  refine ⟨_, hidle.trans (finishCommand_eq u), State.complete_done _ _, State.complete_eng _ _,
    hcmd.trans (finishCommand_withFlags u u.done true), ?_⟩
  rw [State.complete_ovr]
  exact hack.trans (finishCommand_withFlags u _ _)

/-! ### The two ways a command ends -/

/-- STATUS shows the error's code in bits 11:8 (R29, R220). -/
theorem readReg_status_errcode (s : State) : (s.readReg .status).extractLsb' 8 4 = s.errNumber := by
  obtain ⟨-, -, -, -, -, hcode, -⟩ := statusLayout_fields s.errNumber s.ovr s.errFlag s.done s.busy _ rfl
  exact hcode

/-- Settles O11: the command's computation returns or raises, and the completion records which. -/
theorem completionWritesResultAndStatus : Obligations.CompletionWritesResultAndStatus := by
  unfold Obligations.CompletionWritesResultAndStatus
  intro i s
  rcases runCommand_cases s (commandOf i) with ⟨v, k, hr, hc⟩ | ⟨e, info, k, hr, hc⟩
  · exact .inl ⟨v, k, hr, exec_next.mpr hc⟩
  · refine .inr ⟨e, info, k, hr, exec_next.mpr hc, fun t ht => ?_⟩
    obtain rfl := hc.symm.trans (exec_next.mp ht)
    rw [readReg_status_errcode]
    cases e <;> rfl

/-- Settles O12: every command ends in a completion, which writes RESULT, ERRINFO and STATUS alone. -/
theorem commandsLeaveEverythingElse : Obligations.CommandsLeaveEverythingElse := by
  unfold Obligations.CommandsLeaveEverythingElse
  intro i s t h
  obtain rfl := exec_next.mp h
  refine ⟨fun r hresult herrinfo hstatus => State.complete_readReg s _ (by simp [hresult, herrinfo, hstatus]), ?_⟩
  simp [State.runCommand]

/-! ### The completion interrupt -/

/-- After any completion the interrupt stands at CTRL.IE (R230). -/
theorem State.complete_irq (s : State) (r : Run Word) : (s.complete r).irq = s.ie := by simp [State.irq]

theorem readReg_status_done (s : State) : (s.readReg .status).getLsbD 1 = s.done := by
  obtain ⟨-, hdone, -⟩ := statusLayout_fields s.errNumber s.ovr s.errFlag s.done s.busy _ rfl
  exact hdone

theorem readReg_ctrl_ie (s : State) : (s.readReg .ctrl).getLsbD 0 = s.ie := by
  show ((0 : BitVec 63) ++ BitVec.ofBool s.ie).getLsbD 0 = s.ie
  cases s.ie <;> decide

/-- Settles O32: the level's two bits, what a completion makes of them, and what each register write does. -/
theorem interruptFollowsCompletion : Obligations.InterruptFollowsCompletion := by
  unfold Obligations.InterruptFollowsCompletion
  refine ⟨fun s => ?level, fun i s t h => ?command, fun s t h => ?completion, fun s v hv => ?clearDone,
    fun s v => rfl, fun s w hi => ?issue, fun s w hb => ?overrun⟩
  case level => rw [readReg_status_done, readReg_ctrl_ie, State.irq]
  case command =>
    obtain rfl := exec_next.mp h
    exact State.complete_irq s _
  case completion =>
    rw [finishCommand_eq] at h
    cases h
    exact State.complete_irq s _
  case clearDone => simp [State.writeReg, State.irq, hv]
  case issue => simp [State.writeReg, writeCmd_idle hi, State.irq]
  case overrun => simp [State.writeReg, writeCmd_busy hb, State.irq]

end Sys2Proof.Machine
end

section
/-! SUPPORT and the proof about the bounds on reads (R262): a bound for each part of a command, added up as there. -/

namespace Sys2Proof.Machine

variable {α β : Type}

/-! ### Values, errors and branches -/

theorem Engine.ReadsAtMost.pure_any (v : α) (b : Nat) : (Engine.pure v).ReadsAtMost b :=
  (Engine.ReadsAtMost.pure v).mono (Nat.zero_le b)

theorem Engine.ReadsAtMost.raise_any (e : ErrorKind) (b : Nat) : (Engine.raise e : Engine α).ReadsAtMost b :=
  (Engine.ReadsAtMost.raise e).mono (Nat.zero_le b)

theorem Engine.ReadsAtMost.ite {p : Prop} [Decidable p] {m m' : Engine α} {b : Nat} (h : m.ReadsAtMost b)
    (h' : m'.ReadsAtMost b) : (if p then m else m').ReadsAtMost b := by
  split
  · exact h
  · exact h'

/-- A value computed from the result costs no read. -/
theorem Engine.ReadsAtMost.bind_pure {m : Engine α} {b : Nat} (h : m.ReadsAtMost b) (g : α → β) :
    (m.bind fun a => .pure (g a)).ReadsAtMost b :=
  h.bind fun a => .pure (g a)

/-! ### The long-view commands (R121 to R123, R140) -/

/-- The view check reads nothing, and gives a number of words or raises. -/
theorem longViewCheck_bind_readsAtMost {c : Ctx} {f : Nat → Engine α} {b : Nat} (h : ∀ n, (f n).ReadsAtMost b) :
    ((longViewCheck c).bind f).ReadsAtMost b := by
  cases hv : c.longViewOk with
  | false =>
    rw [longViewCheck_of_bad hv, Engine.raise_bind]
    exact .raise_any _ b
  | true =>
    rw [longViewCheck_of_ok hv, Engine.pure_bind]
    exact h _

/-- A field spans at most two words (R120). -/
theorem field_readsAtMost {read : Nat → Engine Word} (h : ∀ j, (read j).ReadsAtMost 1) (base sb w : Nat) :
    (field read base sb w).ReadsAtMost 2 :=
  .bind (b := 1) (b' := 1) (h _) fun _ => .ite (.pure_any _ 1) ((h _).bind_pure _)

theorem getbitCmd_readsAtMost (c : Ctx) : (getbitCmd c).ReadsAtMost 1 :=
  longViewCheck_bind_readsAtMost fun _ => .ite (.raise_any _ 1) ((memRead_readsAtMost _).bind_pure _)

theorem longField_readsAtMost (c : Ctx) (base sb w : Nat) :
    ((field (longWord c) base sb w).bind fun v => .pure (zext64 v)).ReadsAtMost 2 :=
  (field_readsAtMost (fun _ => memRead_readsAtMost _) base sb w).bind_pure _

theorem getfieldCmd_readsAtMost (c : Ctx) : (getfieldCmd c).ReadsAtMost 2 :=
  .ite (.raise_any _ 2) <| longViewCheck_bind_readsAtMost fun _ =>
    .ite (.raise_any _ 2) (longField_readsAtMost c _ _ _)

theorem getfieldxCmd_readsAtMost (c : Ctx) : (getfieldxCmd c).ReadsAtMost 2 :=
  .ite (.raise_any _ 2) <| .ite (.raise_any _ 2) <| longViewCheck_bind_readsAtMost fun _ =>
    .ite (.raise_any _ 2) (longField_readsAtMost c _ _ _)

/-- A span of fewer than `2^64` elements is searched with at most 64 probes. -/
theorem arrayrankCmd_readsAtMost (c : Ctx) : (arrayrankCmd c).ReadsAtMost 64 :=
  longViewCheck_bind_readsAtMost fun _ =>
    .ite (.raise_any _ 64) ((arrayRankLoop_readsAtMost c _ _ c.snap.arg1.isLt).bind_pure _)

/-! ### The ROM commands (R104 to R106) -/

theorem romOffsetbitsCmd_readsAtMost (c : Ctx) : (romOffsetbitsCmd c).ReadsAtMost 0 :=
  .ite (.raise _) (.pure _)

theorem romDecodeCmd_readsAtMost (c : Ctx) : (romDecodeCmd c).ReadsAtMost 0 :=
  .ite (.raise _) (.ite (.raise _) (.pure _))

theorem romSmallrankCmd_readsAtMost (c : Ctx) : (romSmallrankCmd c).ReadsAtMost 0 :=
  .ite (.raise _) (.ite (.raise _) (.pure _))

/-! ### Codewords and the header (R57, R62, R74) -/

theorem dictWord_readsAtMost (c : Ctx) (j : Nat) : (dictWord c j).ReadsAtMost 1 :=
  .ite (.raise_any _ 1) (memRead_readsAtMost _)

theorem bodyField_readsAtMost (c : Ctx) (h : Header) (pos w : Nat) : (bodyField c h pos w).ReadsAtMost 2 :=
  field_readsAtMost (dictWord_readsAtMost c) _ _ _

/-- A class field and a class-0 flag, of at most two words each. -/
theorem groupCount_readsAtMost (c : Ctx) (h : Header) (pos : Nat) : (groupCount c h pos).ReadsAtMost 4 :=
  .bind (b := 2) (b' := 2) (bodyField_readsAtMost c h _ _) fun _ =>
    .ite ((bodyField_readsAtMost c h _ _).bind_pure _) (.pure_any _ 2)

theorem groupPattern_readsAtMost (c : Ctx) (h : Header) (pos cls : Nat) : (groupPattern c h pos cls).ReadsAtMost 2 :=
  .bind (b := 2) (b' := 0) (.ite (.pure_any _ 2) (bodyField_readsAtMost c h _ _)) fun _ => .ite (.raise _) (.pure _)

/-- The header costs one read, and what follows sees the layout of a 64-bit `n`. -/
theorem dictHeader_bind_readsAtMost {c : Ctx} {f : Header → Engine α} {b : Nat}
    (h : ∀ w : Word, (f (headerOf (u64 w))).ReadsAtMost b) : ((dictHeader c).bind f).ReadsAtMost (1 + b) := by
  unfold dictHeader dictViewCheck
  split_ifs
  · rw [Engine.pure_bind, Engine.bind_assoc]
    refine (dictWord_readsAtMost c 0).bind fun w => ?_
    split_ifs
    · exact .raise_any _ b
    · exact .raise_any _ b
    · exact h w
  · exact .raise_any _ (1 + b)

/-! ### Rank (R160 to R162) -/

theorem scanGroups_readsAtMost (c : Ctx) (h : Header) (groups res pos : Nat) :
    (scanGroups c h groups res pos).ReadsAtMost (groups * 4) := by
  induction groups generalizing res pos with
  | zero => exact .pure_any _ _
  | succ g ih =>
    rw [Nat.succ_mul, Nat.add_comm (_ * 4)]
    exact (groupCount_readsAtMost c h pos).bind fun _ => ih _ _

/-- Four index words, at most 31 whole groups of the quarter, and the last group's class and offset. -/
theorem rank1Core_readsAtMost (c : Ctx) (h : Header) (i : Nat) : (rank1Core c h i).ReadsAtMost 132 := by
  have hgroups : i % qSpan / groupBits * 4 ≤ 31 * 4 := by
    simp only [qSpan, groupBits]
    omega
  have hscan := fun res pos => (scanGroups_readsAtMost c h (i % qSpan / groupBits) res pos).mono hgroups
  exact .bind (b := 1) (b' := 131) (dictWord_readsAtMost c _) fun _ =>
    .bind (b := 1) (b' := 130) (dictWord_readsAtMost c _) fun _ =>
    .bind (b := 1) (b' := 129) (dictWord_readsAtMost c _) fun _ =>
    .bind (b := 1) (b' := 128) (dictWord_readsAtMost c _) fun _ =>
    .bind (b := 31 * 4) (b' := 4) (hscan _ _) fun _ =>
    .bind (b := 2) (b' := 2) (bodyField_readsAtMost c h _ _) fun _ =>
    .bind (b := 2) (b' := 0) (groupPattern_readsAtMost c h _ _) fun _ => .ite (.raise _) (.pure _)

/-- The header and `Rank1Core` (R160, R162). -/
theorem rankCount_readsAtMost (c : Ctx) : (rankCount c).ReadsAtMost 133 :=
  dictHeader_bind_readsAtMost (b := 132) fun _ => .ite (.raise_any _ 132) (rank1Core_readsAtMost c _ _)

/-- A command that counts for a non-negative index only, and then computes its result from the count. -/
theorem readsAtMost_of_rankCount {c : Ctx} {m : Engine Word} {g : Nat → Word} (hneg : c.arg0S < 0 → m = .pure 0)
    (hpos : 0 ≤ c.arg0S → m = (rankCount c).bind fun r => .pure (g r)) : m.ReadsAtMost 133 := by
  rcases lt_or_ge c.arg0S 0 with h | h
  · rw [hneg h]
    exact .pure_any _ 133
  · rw [hpos h]
    exact (rankCount_readsAtMost c).bind_pure g

theorem rank1Cmd_readsAtMost (c : Ctx) : (rank1Cmd c).ReadsAtMost 133 :=
  readsAtMost_of_rankCount (fun h => if_pos h) rank1Cmd_eq_rankCount

theorem rank0Cmd_readsAtMost (c : Ctx) : (rank0Cmd c).ReadsAtMost 133 :=
  readsAtMost_of_rankCount (fun h => if_pos h) rank0Cmd_eq_rankCount

/-! ### Select (R190 to R193) -/

/-- Each probe of the block search halves its range: fewer than `2^b` blocks take at most `b` reads. -/
theorem bsearchLoop_readsAtMost {f : Nat → Engine Int} (hf : ∀ m, (f m).ReadsAtMost 1) (val : Int)
    {bound b lo hi : Nat} (h : hi - lo < 2 ^ b) : (bsearchLoop f val bound lo hi).ReadsAtMost b := by
  induction bound generalizing b lo hi with
  | zero => exact .pure_any hi b
  | succ bound ih =>
    rw [bsearchLoop]
    split_ifs with hlt
    · cases b with
      | zero => omega
      | succ b =>
        rw [pow_succ] at h
        rw [Nat.add_comm b]
        exact (hf _).bind fun _ => .ite (ih (by omega)) (ih (by omega))
    · exact .pure_any hi b

theorem bsearchGT_readsAtMost {f : Nat → Engine Int} (hf : ∀ m, (f m).ReadsAtMost 1) {cnt b : Nat} (h : cnt < 2 ^ b)
    (val : Int) : (bsearchGT cnt f val).ReadsAtMost b :=
  (bsearchLoop_readsAtMost hf val h).bind_pure _

theorem totalOnes_readsAtMost (c : Ctx) (h : Header) : (totalOnes c h).ReadsAtMost 132 :=
  .ite (.pure_any _ 132) (rank1Core_readsAtMost c h _)

theorem l3Count_readsAtMost (c : Ctx) (h : Header) (one : Bool) (m : Nat) : (l3Count c h one m).ReadsAtMost 1 :=
  (dictWord_readsAtMost c _).bind_pure _

theorem l12Count_readsAtMost (c : Ctx) (h : Header) (one : Bool) (lo m : Nat) : (l12Count c h one lo m).ReadsAtMost 1 :=
  (dictWord_readsAtMost c _).bind_pure _

/-- The L3 blocks of a 64-bit `n` are fewer than `2^33`. -/
theorem headerOf_l3N_lt (w : Word) : (headerOf (u64 w)).l3N < 2 ^ 33 := by
  have hn : u64 w < 2 ^ 64 := w.isLt
  simp only [headerOf, l3Span]
  omega

/-- At most 33 probes, the chosen block's count again, and its position. -/
theorem l3Stage_readsAtMost (c : Ctx) (w : Word) (one : Bool) (val : Int) :
    (l3Stage c (headerOf (u64 w)) one val).ReadsAtMost 35 :=
  .bind (b := 33) (b' := 2) (bsearchGT_readsAtMost (l3Count_readsAtMost c _ one) (headerOf_l3N_lt w) val) fun _ =>
  .bind (b := 1) (b' := 1) (l3Count_readsAtMost c _ one _) fun _ =>
  .bind (b := 1) (b' := 0) (dictWord_readsAtMost c _) fun _ => .ite (.raise _) (.pure _)

/-- An L3 block has at most `2^21` L12 blocks: at most 22 probes, the chosen block's count again, and its two words. -/
theorem l12Stage_readsAtMost (c : Ctx) (h : Header) (one : Bool) (l3 : Nat) (val : Int) (pos : Nat) :
    (l12Stage c h one l3 val pos).ReadsAtMost 25 :=
  have hcnt : min (h.l12N - l3 * l12PerL3) l12PerL3 < 2 ^ 22 := (min_le_right _ _).trans_lt (by decide)
  .bind (b := 22) (b' := 3) (bsearchGT_readsAtMost (l12Count_readsAtMost c h one _) hcnt val) fun _ =>
  .bind (b := 1) (b' := 2) (l12Count_readsAtMost c h one _ _) fun _ =>
  .bind (b := 1) (b' := 1) (dictWord_readsAtMost c _) fun _ =>
  .bind (b := 1) (b' := 0) (dictWord_readsAtMost c _) fun _ => .ite (.raise _) (.pure _)

theorem groupStage_readsAtMost (c : Ctx) (h : Header) (one : Bool) (left : Nat) (x : Cursor) :
    (groupStage c h one left x).ReadsAtMost (left * 4) := by
  induction left generalizing x with
  | zero => exact .raise_any _ _
  | succ left ih =>
    rw [Nat.succ_mul, Nat.add_comm (_ * 4)]
    exact (groupCount_readsAtMost c h x.pos).bind fun _ => .ite (.pure_any _ _) (ih _)

theorem bitStage_readsAtMost (h : Header) (one : Bool) (p : Pattern) (x : Cursor) :
    (bitStage h one p x).ReadsAtMost 0 := by
  unfold bitStage
  split
  · exact .ite (.raise _) (.pure _)
  · exact .raise _

/-- The two index stages, the quarter's 32 groups, and the offset of the group found. -/
theorem selectStages_readsAtMost (c : Ctx) (w : Word) (one : Bool) (val : Int) :
    (selectStages c (headerOf (u64 w)) one val).ReadsAtMost 190 :=
  .bind (b := 35) (b' := 155) (l3Stage_readsAtMost c w one val) fun _ =>
  .bind (b := 25) (b' := 130) (l12Stage_readsAtMost c _ one _ _ _) fun _ =>
  .bind (b := 128) (b' := 2) (groupStage_readsAtMost c _ one groupsPerQ _) fun _ =>
  .bind (b := 2) (b' := 0) (groupPattern_readsAtMost c _ _ _) fun _ => bitStage_readsAtMost _ one _ _

/-- The header, the count `P`, and the stages. -/
theorem selectCore_readsAtMost (one : Bool) (c : Ctx) : (selectCore one c).ReadsAtMost 323 :=
  .ite (.raise_any _ 323) <| dictHeader_bind_readsAtMost (b := 322) fun w =>
    .bind (b := 132) (b' := 190) (totalOnes_readsAtMost c _) fun _ =>
    .ite (.raise_any _ 190) ((selectStages_readsAtMost c w one _).bind_pure _)

/-! ### Every command (R262) -/

theorem commandOf_readsAtMost (i : Instr) (c : Ctx) : (commandOf i c).ReadsAtMost (readBound i) := by
  cases i with
  | getbit => exact getbitCmd_readsAtMost c
  | getfield => exact getfieldCmd_readsAtMost c
  | getfieldx => exact getfieldxCmd_readsAtMost c
  | arrayrank => exact arrayrankCmd_readsAtMost c
  | rank1 => exact rank1Cmd_readsAtMost c
  | rank0 => exact rank0Cmd_readsAtMost c
  | select1 => exact selectCore_readsAtMost true c
  | select0 => exact selectCore_readsAtMost false c
  | romOffsetbits => exact romOffsetbitsCmd_readsAtMost c
  | romDecode => exact romDecodeCmd_readsAtMost c
  | romSmallrank => exact romSmallrankCmd_readsAtMost c

/-- Settles O16: the reads of the state it ends in are those of the command's computation, which keeps its bound. -/
theorem readsStayWithinTheBounds : Obligations.ReadsStayWithinTheBounds := by
  unfold Obligations.ReadsStayWithinTheBounds
  intro i s t h
  rw [← exec_next.mp h, runCommand_reads]
  exact commandOf_readsAtMost i s.ctx s.store s.reads

end Sys2Proof.Machine
end

section
/-! SUPPORT and the proof about `rst` (R44, R250, R251). -/

namespace Sys2Proof.Machine

/-- The step of an `rst` is the reset and nothing else: the engine does not advance, in flight or not (R251). -/
theorem step_reset {s : State} (h : s.nextInput = .reset) : step s = .next s.takeInput.resetBlock := by
  rcases cycle_cases s with ⟨_, _, ⟨_, hne⟩, _⟩ | ⟨t, ht, _, hstep⟩ | ⟨r, hr, _⟩
  · exact absurd h hne
  · rw [hstep, ← ht, h, applyInput_reset]
  · rw [h, applyInput_reset] at hr
    cases hr

/-- Every register has its value of R44, whatever the state was. -/
theorem resetBlock_readReg (s : State) (r : Reg) : s.resetBlock.readReg r = State.reset.readReg r := by
  cases r <;> rfl

/-- Settles O33: the step is the reset, in which nothing of the engine's state is left. -/
theorem resetAbandonsTheCommandInFlight : Obligations.ResetAbandonsTheCommandInFlight := by
  unfold Obligations.ResetAbandonsTheCommandInFlight
  intro s rest hin
  refine ⟨_, step_reset (nextInput_cons hin), resetBlock_readReg _, ?_⟩
  simp [takeInput_cons hin, State.irq]

end Sys2Proof.Machine
end
